-- ==== Sys2Proof/Word.lean ====
section
/-!
DEFINITION. The word types of the part: bytes, keys (16 bits), the 32-bit numbers (generations, transaction numbers, epochs, sector
sequences), and the numbers of sectors.
-/

namespace Sys2Proof

/-- A byte of a frame, of a record body or of the array. -/
abbrev Byte := BitVec 8

/-- A 16-bit number: a key (R1), a session number (R50), a notice subject (R159), an offset (R20), a check (R26, R181). -/
abbrev Half := BitVec 16

/-- A key names a record (R1). -/
abbrev Key := Half

/-- A 32-bit number: a generation (R6), a transaction number (R109), an epoch (R26), a sector sequence (R27), a delta (R78). -/
abbrev Word := BitVec 32

/-- A sector of the array, 0 to 47 (R25). -/
abbrev Sector := Fin 48

end Sys2Proof
end

