-- ==== Sys2Proof/Syntax.lean ====
section
/-!
DEFINITION. The commands of the part: one constructor of `Instr` per row of spec/opcode_table.json, and the requests (R179) as they are
passed to the blocks that own them.
-/

namespace Sys2Proof

/-- The two serial links (00_scope.md, 2.0). -/
inductive Link
  | p
  | s
  deriving DecidableEq, Repr

/-- The link that is not this one. -/
def Link.other : Link → Link
  | .p => .s
  | .s => .p

/-- The three ends of an array operation (R30). -/
inductive OpOutcome
  | done
  | verifyFail
  | deadline
  deriving DecidableEq, Repr

/-- The requests of R179 with the fields of R182, as values. Fields that an owner judges (a class, a privilege, a count, a lease, a
key) are the raw field, so that every value the frame can carry is here. `expected` is the optional expected generation (R92: absent
and 00000000H are different requests). -/
inductive Request
  | status
  | notices
  | ack (n : Byte)
  | openSession (privilege lease : Byte)
  | renew (privilege lease : Byte)
  | close
  | read (key offset : Half) (maximum : Byte)
  | list (start : Key) (count : Byte)
  | put (key : Key) (cls : Byte) (expected : Option Word) (body : List Byte)
  | append (key : Key) (bytes : List Byte)
  | add (key : Key) (delta : Word)
  | delete (key : Key) (expected : Option Word)
  | drop (key : Key)
  | staged
  | abort
  | commit
  | watch (key : Key)
  | unwatch (key : Key)
  | reclaim
  | format
  | restart
  deriving DecidableEq, Repr

/-- One command of the part, one constructor per row of the table. A request row carries the link it arrives on and its sequence (R181)
before its own fields. -/
inductive Instr
  /-- STATUS (R180). -/
  | status (l : Link) (sq : Byte)
  /-- NOTICES (R164). -/
  | notices (l : Link) (sq : Byte)
  /-- ACK (R165). -/
  | ack (l : Link) (sq n : Byte)
  /-- OPEN (R52). -/
  | openSession (l : Link) (sq privilege lease : Byte)
  /-- RENEW (R53). -/
  | renew (l : Link) (sq privilege lease : Byte)
  /-- CLOSE (R55). -/
  | close (l : Link) (sq : Byte)
  /-- READ (R20). -/
  | read (l : Link) (sq : Byte) (key offset : Half) (maximum : Byte)
  /-- LIST (R23). -/
  | list (l : Link) (sq : Byte) (start : Key) (count : Byte)
  /-- PUT (R74). -/
  | put (l : Link) (sq : Byte) (key : Key) (cls : Byte) (expected : Option Word) (body : List Byte)
  /-- APPEND (R76, R77). -/
  | append (l : Link) (sq : Byte) (key : Key) (bytes : List Byte)
  /-- ADD (R78, R79). -/
  | add (l : Link) (sq : Byte) (key : Key) (delta : Word)
  /-- DELETE (R80). -/
  | delete (l : Link) (sq : Byte) (key : Key) (expected : Option Word)
  /-- DROP (R81). -/
  | drop (l : Link) (sq : Byte) (key : Key)
  /-- STAGED (R82). -/
  | staged (l : Link) (sq : Byte)
  /-- ABORT (R83). -/
  | abort (l : Link) (sq : Byte)
  /-- COMMIT (R87). -/
  | commit (l : Link) (sq : Byte)
  /-- WATCH (R59). -/
  | watch (l : Link) (sq : Byte) (key : Key)
  /-- UNWATCH (R60). -/
  | unwatch (l : Link) (sq : Byte) (key : Key)
  /-- RECLAIM (R133). -/
  | reclaim (l : Link) (sq : Byte)
  /-- FORMAT (R154). -/
  | format (l : Link) (sq : Byte)
  /-- RESTART (R153). -/
  | restart (l : Link) (sq : Byte)
  /-- FRAME_COMPLETE (R175): a frame with this sequence, kind and body has been received, `check` being its two check bytes as
  received (R173, R181). Its length byte is the length of the body. -/
  | frameComplete (l : Link) (sq kind : Byte) (body : List Byte) (check : Half)
  /-- GAP_TIMEOUT (R172). -/
  | gapTimeout (l : Link)
  /-- BREAK (R174). -/
  | lineBreak (l : Link)
  /-- REPLY_SENT (R178). -/
  | replySent (l : Link)
  /-- LEASE_EXPIRY (R58). -/
  | leaseExpiry (l : Link)
  /-- PROGRAM_COMPLETE (R31, R32): the program of an image ends; `fillOk` says whether the fill of a failed span reads back. -/
  | programComplete (outcome : OpOutcome) (fillOk : Bool)
  /-- ACTIVATION_RECORD_COMPLETE (R40). -/
  | activationRecordComplete (outcome : OpOutcome)
  /-- OPERATION_DEADLINE (R30): the operation in flight, whatever it is, is stopped with outcome DEADLINE. -/
  | operationDeadline (fillOk : Bool)
  /-- ERASE_COMPLETE (R33): the erase step ends. -/
  | eraseComplete (outcome : OpOutcome)
  /-- ERASE_RECORD_COMPLETE (R33). -/
  | eraseRecordComplete (outcome : OpOutcome)
  /-- POWER_ON (R136). -/
  | powerOn
  /-- SUPPLY_LOSS (R136). -/
  | supplyLoss
  /-- RESET_ASSERT (R136). -/
  | resetAssert
  /-- RESET_RELEASE (R136). -/
  | resetRelease
  /-- PFAIL_ASSERT (R150). -/
  | pfailAssert
  /-- PFAIL_DEASSERT (R152). -/
  | pfailDeassert
  /-- SUPPLY_RETURN_START (R152). -/
  | supplyReturnStart
  /-- RESTART_REQUEST_START (R153). -/
  | restartRequestStart
  /-- BYTE_RECEIVED (R170, R173): a byte, with its stop bit at space where `charError`. -/
  | byteReceived (l : Link) (byte : Byte) (charError : Bool)
  /-- RECEIVE_LINE_TO_SPACE (R174). -/
  | receiveLineToSpace (l : Link)
  /-- RECEIVE_LINE_TO_MARK (R174). -/
  | receiveLineToMark (l : Link)
  deriving DecidableEq, Repr

end Sys2Proof
end

