-- ==== Sys2Proof/Decode.lean ====
section
/-!
DEFINITION. Decoding by the table's bits. No row of spec/opcode_table.json gives bits (every "fields" is empty and no row has "fixed"),
so no word spells a command. The frames of R182, which do carry the requests as bytes, are decoded in Machine/Operands.lean.
-/

namespace Sys2Proof

/-- The command that the word `w` of `nbits` bits spells by the table's bits: none, since the table gives no row any bits. -/
def decodeTableWord (_nbits _w : Nat) : Option Instr :=
  none

end Sys2Proof
end

