-- ==== Sys2Proof/Machine/Bytes.lean ====
section
/-!
DEFINITION. Byte order (most significant byte first, 00_scope.md 6.2) and the 16-bit check of frames and of the array (R26, R170).
-/

namespace Sys2Proof.Machine

/-- The two bytes of a 16-bit field, most significant first. -/
def be16 (h : Half) : List Byte :=
  [h.extractLsb' 8 8, h.extractLsb' 0 8]

/-- The four bytes of a 32-bit field, most significant first. -/
def be32 (w : Word) : List Byte :=
  [w.extractLsb' 24 8, w.extractLsb' 16 8, w.extractLsb' 8 8, w.extractLsb' 0 8]

/-- The six bytes of the 48 flags of a retired set, most significant first (R27; that flag `i` is bit `i` is log 8). -/
def be48 (w : BitVec 48) : List Byte :=
  [w.extractLsb' 40 8, w.extractLsb' 32 8, w.extractLsb' 24 8, w.extractLsb' 16 8, w.extractLsb' 8 8, w.extractLsb' 0 8]

/-- The unsigned number that bytes spell, most significant first. -/
def bytesToNat (bs : List Byte) : Nat :=
  bs.foldl (fun n b => n * 256 + b.toNat) 0

def toHalf (hi lo : Byte) : Half :=
  hi ++ lo

def toWord (a b c d : Byte) : Word :=
  a ++ b ++ c ++ d

/-- One bit of the division by x^16 + x^12 + x^5 + 1, unreflected. -/
def crcBit (c : Half) : Half :=
  bif c.msb then (c <<< 1) ^^^ 0x1021 else c <<< 1

def crcBits : Nat → Half → Half
  | 0, c => c
  | n + 1, c => crcBits n (crcBit c)

def crcByte (c : Half) (b : Byte) : Half :=
  crcBits 8 (c ^^^ (b ++ (0 : Byte)))

/-- R26, R170: the check over bytes, initial value FFFFH, no reflection, no final inversion. -/
def crc16 (bs : List Byte) : Half :=
  bs.foldl crcByte 0xFFFF

/-- A number that stops at FFFFH when it rises (R169). -/
def riseToMax (h : Half) : Half :=
  if h = 0xFFFF then h else h + 1

end Sys2Proof.Machine
end

