-- ==== Sys2Proof/Config.lean ====
section
/-!
DEFINITION. What the part fixes (its principal quantities, 00_scope.md section 7.0) and the one free value of the model.
-/

namespace Sys2Proof.Config

/-- Record places in the directory (R7). -/
def places : Nat := 384
/-- Longest record body in bytes (R5). -/
def maxBody : Nat := 496
/-- Body bytes that one PUT or APPEND carries at most (R74, R76, R182). -/
def maxPart : Nat := 224
/-- Frame body bytes at most (R181). -/
def maxFrameBody : Nat := 240
/-- Entry slots of the staging pool (R66). -/
def poolSlots : Nat := 24
/-- Body bytes of the staging pool (R66). -/
def poolBytes : Nat := 1536
/-- Staged entries of one session (R67). -/
def maxStaged : Nat := 16
/-- Keys of a watch list (R59). -/
def maxWatch : Nat := 8
/-- Bytes of a unit (R25). -/
def unitBytes : Nat := 16
/-- Units of a sector (R25). -/
def sectorUnits : Nat := 256
/-- Bytes of a sector (R25). -/
def sectorBytes : Nat := 4096
/-- Units of a sector that take images (R25). -/
def imageUnits : Nat := 254
/-- ERASED sectors that a commit holds in reserve (R98). -/
def reserve : Nat := 2
/-- The wear limit (R41). -/
def wearLimit : Nat := 100000
/-- The erase count that gives the first WEAR notice (R41). -/
def wearNotice : Nat := 90000
/-- Sectors not RETIRED below which the store is READ-ONLY (R44). -/
def minSectors : Nat := 6
/-- Frames of a reply queue (R178). -/
def maxReplies : Nat := 4
/-- Retries of one image (R104, R129). -/
def maxRetries : Nat := 2
/-- ERASED sectors at or below which a cycle is wanted (R116). -/
def lowWater : Nat := 4
/-- ERASED sectors below which a further cycle is run (R118). -/
def refill : Nat := 6
/-- Cycles of one wear rotation (R120). -/
def rotation : Nat := 32
/-- Largest value a saturating counter of a link takes (R169). -/
def maxCount : Half := 0xFFFF

/-- FREE VALUE. The byte a unit holds after a failed fill, a failed erase or head record, or an operation cut off by RESET or a loss
of supply: R30 calls the units then "in an unknown state". Applied to State's counter `freeCount`; it has no body (log 9). -/
opaque freeByte : Nat → Byte

end Sys2Proof.Config
end

