-- ==== Sys2Proof/Machine/State.lean ====
section
/-!
DEFINITION. The state of the part as plain data, block by block (00_scope.md section 3.0), its start values (R137) and its reset.
-/

namespace Sys2Proof.Machine

/-! ### Why a command could stop -/

/-- What could stop the machine. The spec gives every command an effect, so no command raises a fault. -/
inductive Fault
  /-- An access outside the 196,608 bytes of the array. Raised by nobody: accesses go by sector and unit (R25) and cannot leave the
  array. Safe: a stop, never a wrong value. -/
  | outsideArray (address : Nat)
  deriving DecidableEq, Repr

/-- Why a command could have no meaning. -/
inductive Refusal
  /-- Raised by an arm of `exec` whose command has no meaning yet; no arm does so any more. Safe. -/
  | notModelled (mnemonic : String)
  deriving DecidableEq, Repr

/-! ### Names -/

/-- Record classes (R2, 10.2.3). -/
inductive RecClass
  | plain
  | service
  | once
  | counter
  deriving DecidableEq, Repr

/-- Privileges (R51). -/
inductive Privilege
  | read
  | write
  | service
  deriving DecidableEq, Repr

/-- Result codes (10.2.2). -/
inductive Result
  | ok | clipped | busy | notReady | halted | readOnly | unknownKind | badFormat
  | badKey | badValue | noSession | sessionOpen | notPermitted | notFound | classMismatch | onceViolation | conflict
  | exists | truncated | empty | noRoom | dirFull | storeFull | watchFull | mediaFault | cancelled
  deriving DecidableEq, Repr

/-- Store modes (R138). -/
inductive StoreMode
  | mounting | ready | readOnly | formatting | unformatted | halted
  deriving DecidableEq, Repr

/-- Start causes (R136). -/
inductive StartCause
  | powerOn | resetPin | restartRequest | supplyReturn
  deriving DecidableEq, Repr

/-- Notice kinds (R160). -/
inductive NoticeKind
  | started | keyChanged | sessionEnded | commitResult | storeMode | wear | lost
  deriving DecidableEq, Repr

/-- The right to use the array (R46, R48); it is also the current array job of STATUS. -/
inductive Tenancy
  | none | scan | commit | move | erase | format
  deriving DecidableEq, Repr

/-- One value for each link. -/
structure PerLink (α : Type) where
  p : α
  s : α
  deriving DecidableEq, Repr

/-! ### Pins -/

/-- The input lines (00_scope.md 2.0, R184). The outputs stand with what drives them: ATTN in `NoticeQueue.attn`, TX in `LinkState.tx`. -/
structure Pins where
  /-- Supply is within its range (R136). -/
  supplied : Bool
  /-- RESET is asserted (R136). -/
  resetAsserted : Bool
  /-- PFAIL is asserted (R150). -/
  pfailAsserted : Bool
  /-- The straps RATE0 and RATE1 (R168). -/
  rate0 : Bool
  rate1 : Bool
  /-- The receive line is at space (R174). -/
  rxSpace : PerLink Bool
  deriving DecidableEq, Repr

/-- The byte rates of R168, in bits per second. -/
inductive ByteRate
  | r19200 | r57600 | r115200 | r460800
  deriving DecidableEq, Repr

/-! ### Links (R169) -/

inductive FramerState
  | hunt | length | sequence | kind | body | check
  deriving DecidableEq, Repr

/-- The frame in progress: what has been received of it so far (R169, R170). -/
structure FrameInProgress where
  length : Byte
  sequence : Byte
  kind : Byte
  body : List Byte
  checkHigh : Option Byte
  deriving DecidableEq, Repr

/-- The line-state detector (R174). `broken` is BREAK. -/
inductive LineState
  | mark | space | broken
  deriving DecidableEq, Repr

inductive HeldKind
  | commit | format
  deriving DecidableEq, Repr

/-- The held request (R177). -/
structure Held where
  kind : HeldKind
  sequence : Byte
  deriving DecidableEq, Repr

/-- A reply frame (R178, R181): its body begins with the result code. -/
structure Frame where
  sequence : Byte
  kind : Byte
  body : List Byte
  check : Half
  deriving DecidableEq, Repr

/-- The transmit line of a link (TXP, TXS; R168, R184): at mark while idle and while held there, or sending the bytes of a reply frame
(R178). -/
inductive TxLine
  | mark
  | sending (bytes : List Byte)
  deriving DecidableEq, Repr

structure LinkState where
  framer : FramerState
  frame : FrameInProgress
  line : LineState
  held : Option Held
  /-- Oldest first (R178). -/
  replies : List Frame
  /-- The reply most recently placed (R176). -/
  cache : Option Frame
  checkCount : Half
  gapCount : Half
  overrunCount : Half
  /-- Milliseconds since the last byte taken (R172). -/
  gapTimer : Nat
  /-- Milliseconds since the line passed to space (R174). -/
  breakTimer : Nat
  /-- The transmit line (R168, R184). -/
  tx : TxLine
  deriving DecidableEq, Repr

/-! ### Notices (R159) -/

structure Notice where
  kind : NoticeKind
  subject : Half
  detail : Word
  /-- 1 to 255. -/
  repeats : Nat
  seen : Bool
  deriving DecidableEq, Repr

structure NoticeQueue where
  /-- Oldest first. -/
  entries : List Notice
  /-- The attention line of the link is active (R166). -/
  attn : Bool
  deriving DecidableEq, Repr

/-! ### Sessions and staging (R49, R68) -/

inductive SessionState
  | none | opened | committing
  deriving DecidableEq, Repr

/-- What a staged entry changes (R68). The write pointer of a PUT is the length of its body. -/
inductive StagedOp
  | put (cls : RecClass) (expected : Option Word) (body : List Byte) (clipped : Nat)
  | delete (expected : Option Word)
  | add (delta : Word)
  deriving DecidableEq, Repr

structure StagedEntry where
  key : Key
  op : StagedOp
  deriving DecidableEq, Repr

structure SessionRow where
  state : SessionState
  orphaned : Bool
  number : Option Half
  privilege : Option Privilege
  /-- Seconds. -/
  leasePeriod : Option Nat
  /-- Milliseconds. -/
  leaseRemaining : Option Nat
  /-- In first-staged order (R69). -/
  staging : List StagedEntry
  /-- In order of addition (R59). -/
  watch : List Key
  deriving DecidableEq, Repr

/-! ### The directory (R8) -/

/-- A place in the array where an image begins. -/
structure Location where
  sector : Sector
  unit : Nat
  deriving DecidableEq, Repr

/-- LIVE with class and body length, or DELETED (R8: the two fields are absent while DELETED). -/
inductive EntryBody
  | live (cls : RecClass) (length : Nat)
  | deleted
  deriving DecidableEq, Repr

structure DirEntry where
  key : Key
  body : EntryBody
  generation : Word
  location : Location
  stale : Nat
  dropPending : Bool
  deriving DecidableEq, Repr

/-! ### The array -/

/-- The image kinds (R28); a COPY carries its inner kind. -/
inductive Image
  | record (cls : RecClass) (key : Key) (body : List Byte) (generation : Word)
  | void (key : Key) (generation : Word)
  | mark (number : Word) (count : Nat)
  | copyRecord (cls : RecClass) (key : Key) (body : List Byte) (generation : Word)
  | copyVoid (key : Key) (generation : Word)
  deriving DecidableEq, Repr

inductive SectorState
  | erased | active | full | victim | moved | erasing | retired
  deriving DecidableEq, Repr

/-- A row of the sector table (R35). -/
structure SectorRow where
  state : SectorState
  eraseCount : Nat
  sequence : Option Word
  /-- 2 to 256. -/
  nextFree : Nat
  waste : Nat
  suspect : Bool
  retirePending : Bool
  deriving DecidableEq, Repr

abbrev SectorTable := Vector SectorRow 48

/-- The array operation in flight (R30). -/
inductive ArrayOp
  /-- The program of an image at a place of the ACTIVE sector (R31). -/
  | image (img : Image) (loc : Location)
  /-- The program of an activation record, for an image that is to be placed after it (R39, R40). -/
  | activation (sector : Sector) (img : Image)
  /-- The erase step of a sector (R33). -/
  | erase (sector : Sector)
  /-- The program of a sector's erase record (R33, R145, R147). -/
  | eraseRecord (sector : Sector)
  deriving DecidableEq, Repr

structure ArrayUnit where
  /-- The bytes of the array: address = 4096 × sector + 16 × unit + byte; an unlisted byte reads FFH (R25). -/
  mem : List Host.Cell
  table : SectorTable
  epoch : Option Word
  /-- One flag for each sector number, bit i for sector i (R43; the places of the flags in the array: log 8). -/
  retiredSet : BitVec 48
  recorded : Bool
  nextSeq : Word
  tenancy : Tenancy
  op : Option ArrayOp
  /-- Milliseconds since the operation in flight began. -/
  opTimer : Nat
  deriving DecidableEq, Repr

/-! ### Commit (R88) -/

inductive JobState
  | queued | validating | waitingSpace | writing | done
  deriving DecidableEq, Repr

/-- A place taken by an image: where it begins and its size in units. -/
structure Place where
  location : Location
  size : Nat
  deriving DecidableEq, Repr

structure CommitJob where
  link : Link
  session : Half
  state : JobState
  granted : Bool
  txn : Option Word
  /-- 1 to 16 while an entry's image is placed, one more while the MARK is. -/
  position : Nat
  retries : Nat
  written : List Place
  saturated : Bool
  result : Option Result
  failingKey : Key
  deriving DecidableEq, Repr

structure CommitEngine where
  /-- Oldest at the head (R89). -/
  queue : List CommitJob
  /-- The next transaction number (R109). -/
  nextTxn : Word
  deriving DecidableEq, Repr

/-! ### The reclaimer (R114) -/

inductive ReclaimState
  | idle | claimMove | moving | claimErase | erasing
  deriving DecidableEq, Repr

/-- An image place with the key of its image. -/
structure KeyedPlace where
  key : Key
  place : Place
  deriving DecidableEq, Repr

/-- The open transaction of the move phase (R127). -/
structure OpenTxn where
  number : Word
  images : List KeyedPlace
  deriving DecidableEq, Repr

/-- A key's count in the stale tally (R114). -/
structure TallyItem where
  key : Key
  count : Nat
  deriving DecidableEq, Repr

structure Reclaimer where
  state : ReclaimState
  victim : Option Sector
  forced : Bool
  requested : Bool
  rotation : Nat
  /-- For each sector its predecessor or none (R119). -/
  span : Vector (Option Sector) 48
  barred : List Sector
  openTxn : Option OpenTxn
  tally : List TallyItem
  relocated : List KeyedPlace
  /-- The unit of the victim that the walk has reached (R124). -/
  walkUnit : Nat
  /-- Failures of the COPY being programmed (R129). -/
  copyFailures : Nat
  deriving DecidableEq, Repr

/-! ### Mount unit and supply monitor (R138, R150) -/

inductive Activity
  | none | scan | format
  deriving DecidableEq, Repr

inductive ScanPhase
  | heads | replay | repair | decide
  deriving DecidableEq, Repr

structure StartFlags where
  torn : Bool
  repaired : Bool
  epochCleaned : Bool
  initialised : Bool
  deriving DecidableEq, Repr

/-- What the repair or the initialisation has to do to a sector (R145, R147). -/
inductive RepairKind
  | blank | damaged | staleEpoch | initialise
  deriving DecidableEq, Repr

structure RepairTask where
  sector : Sector
  kind : RepairKind
  deriving DecidableEq, Repr

/-- What the scan carries from its heads and its replay to its end (R139, R141, R146). -/
structure ScanRecord where
  /-- L, the largest known erase count. -/
  largest : Nat
  /-- The highest transaction number seen, 0 for none. -/
  highestTxn : Word
  /-- The highest sector sequence found, 0 for none. -/
  highestSeq : Word
  todo : List RepairTask
  deriving DecidableEq, Repr

/-- Where a format stands: its two groups (R155), or the MOVED victim it takes before it ends without emptying the store (R157). -/
inductive FormatStage
  | claiming | first | second | unwinding
  deriving DecidableEq, Repr

structure FormatRecord where
  previousMode : StoreMode
  previousEpoch : Option Word
  newEpochWritten : Bool
  stage : FormatStage
  /-- The first group was empty at the grant (R155, R157). -/
  firstEmpty : Bool
  /-- Sectors of the first and of the second group still to be taken. -/
  firstTodo : List Sector
  secondTodo : List Sector
  deriving DecidableEq, Repr

/-- An accepted RESTART until its start begins (R153): whether its reply is still in the queue of Link S, and behind how many frames. -/
inductive RestartState
  | none
  | replyQueued (ahead : Nat)
  | replyGone
  deriving DecidableEq, Repr

structure MountUnit where
  mode : StoreMode
  activity : Activity
  phase : ScanPhase
  cause : StartCause
  flags : StartFlags
  scan : ScanRecord
  format : Option FormatRecord
  restart : RestartState
  deriving DecidableEq, Repr

inductive SupplyState
  | normal | halted
  deriving DecidableEq, Repr

/-! ### The whole part -/

structure State where
  /-- Commands that wait, first in first out. -/
  pending : List Instr
  pins : Pins
  byteRate : ByteRate
  links : PerLink LinkState
  notices : PerLink NoticeQueue
  sessions : PerLink SessionRow
  sessionCounter : Half
  /-- In ascending key order (R7). -/
  directory : List DirEntry
  commit : CommitEngine
  reclaim : Reclaimer
  array : ArrayUnit
  mount : MountUnit
  supply : SupplyState
  /-- The model's own counter of free bytes taken (log 10). -/
  freeCount : Nat
  deriving DecidableEq, Repr

/-! ### Start values (R137) -/

def FrameInProgress.start : FrameInProgress :=
  { length := 0, sequence := 0, kind := 0, body := [], checkHigh := none }

/-- R169, R184: the start values of a link; the line state is SPACE if the receive line is at space; with no reply the transmit line is at
mark. -/
def LinkState.start (atSpace : Bool) : LinkState :=
  { framer := .hunt, frame := .start, line := if atSpace then .space else .mark, held := none, replies := [], cache := none,
    checkCount := 0, gapCount := 0, overrunCount := 0, gapTimer := 0, breakTimer := 0,
    tx := .mark }

def NoticeQueue.start : NoticeQueue :=
  { entries := [], attn := false }

/-- R49: a row in state NONE. -/
def SessionRow.none : SessionRow :=
  { state := .none, orphaned := false, number := Option.none, privilege := Option.none, leasePeriod := Option.none,
    leaseRemaining := Option.none, staging := [], watch := [] }

/-- R35: the start value of a row of the sector table. -/
def SectorRow.start : SectorRow :=
  { state := .erased, eraseCount := 0, sequence := none, nextFree := 2, waste := 0, suspect := false, retirePending := false }

/-- R114. -/
def Reclaimer.start : Reclaimer :=
  { state := .idle, victim := none, forced := false, requested := false, rotation := 0, span := Vector.replicate 48 none, barred := [],
    openTxn := none, tally := [], relocated := [], walkUnit := 2, copyFailures := 0 }

def StartFlags.none : StartFlags :=
  { torn := false, repaired := false, epochCleaned := false, initialised := false }

def ScanRecord.start : ScanRecord :=
  { largest := 0, highestTxn := 0, highestSeq := 0, todo := [] }

/-- R138: MOUNTING with a scan at HEADS, or HALTED with no activity where PFAIL is asserted (R137). -/
def MountUnit.start (cause : StartCause) (pfail : Bool) : MountUnit :=
  { mode := if pfail then .halted else .mounting, activity := if pfail then .none else .scan, phase := .heads, cause := cause,
    flags := .none, scan := .start, format := none, restart := .none }

/-- R36: the array is not touched; tenancy is the mount unit's unless PFAIL is asserted. -/
def ArrayUnit.start (mem : List Host.Cell) (pfail : Bool) : ArrayUnit :=
  { mem := mem, table := Vector.replicate 48 .start, epoch := none, retiredSet := 0, recorded := false, nextSeq := 1,
    tenancy := if pfail then .none else .scan, op := none, opTimer := 0 }

/-- R168: RATE1, RATE0 choose the byte rate. -/
def Pins.byteRate (p : Pins) : ByteRate :=
  match p.rate1, p.rate0 with
  | false, false => .r19200
  | false, true => .r57600
  | true, false => .r115200
  | true, true => .r460800

/-- R137: the whole state at the moment a start begins, before the mount unit reads the array. Only the pins, the array's contents, the
commands that wait and the free counter come through from before. -/
def State.started (cause : StartCause) (pins : Pins) (mem : List Host.Cell) (pending : List Instr) (freeCount : Nat) : State :=
  { pending := pending
    pins := pins
    byteRate := pins.byteRate
    links := { p := .start pins.rxSpace.p, s := .start pins.rxSpace.s }
    notices := { p := .start, s := .start }
    sessions := { p := .none, s := .none }
    sessionCounter := 1
    directory := []
    commit := { queue := [], nextTxn := 1 }
    reclaim := .start
    array := .start mem pins.pfailAsserted
    mount := .start cause pins.pfailAsserted
    supply := if pins.pfailAsserted then .halted else .normal
    freeCount := freeCount }

/-- The pins at reset: supplied, nothing asserted, both lines at mark, straps open (log 6). -/
def Pins.reset : Pins :=
  { supplied := true, resetAsserted := false, pfailAsserted := false, rate0 := false, rate1 := false,
    rxSpace := { p := false, s := false } }

/-- The part right after a POWER-ON start has begun, with a blank array (R137; log 6 and 7). -/
def State.reset : State :=
  .started .powerOn .reset [] [] 0

end Sys2Proof.Machine
end

