-- ==== Sys2Proof/Machine/Flags.lean ====
section
/-!
DEFINITION. The codes of chapter 10, section 10.2, and the flags bytes of requests and replies (bits numbered 0, least significant,
to 7).
-/

namespace Sys2Proof.Machine

/-- A flags byte that has at most bit 0 (R183). -/
def flagBit0 (b : Bool) : Byte :=
  bif b then 1 else 0

/-- The flags byte of PUT and DELETE (R182): bit 0 says that an expected generation is present; bits 1 to 7 are reserved. -/
def flagsReserved (flags : Byte) : Bool :=
  flags.extractLsb' 1 7 != 0

def flagsExpected (flags : Byte) : Bool :=
  flags.getLsbD 0

/-- The start flags byte: bit 0 TORN, bit 1 REPAIRED, bit 2 EPOCH-CLEANED, bit 3 INITIALISED (10.2.3). -/
def StartFlags.byte (f : StartFlags) : Byte :=
  (bif f.torn then 1 else 0) ||| (bif f.repaired then 2 else 0) ||| (bif f.epochCleaned then 4 else 0) |||
    (bif f.initialised then 8 else 0)

/-- 10.2.2. -/
def Result.code : Result → Byte
  | .ok => 0x00
  | .clipped => 0x01
  | .busy => 0x10
  | .notReady => 0x11
  | .halted => 0x12
  | .readOnly => 0x13
  | .unknownKind => 0x20
  | .badFormat => 0x21
  | .badKey => 0x22
  | .badValue => 0x23
  | .noSession => 0x30
  | .sessionOpen => 0x31
  | .notPermitted => 0x32
  | .notFound => 0x40
  | .classMismatch => 0x41
  | .onceViolation => 0x42
  | .conflict => 0x43
  | .exists => 0x44
  | .truncated => 0x45
  | .empty => 0x46
  | .noRoom => 0x50
  | .dirFull => 0x51
  | .storeFull => 0x52
  | .watchFull => 0x53
  | .mediaFault => 0x60
  | .cancelled => 0x61

/-- 10.2.3. -/
def NoticeKind.code : NoticeKind → Byte
  | .started => 1
  | .keyChanged => 2
  | .sessionEnded => 3
  | .commitResult => 4
  | .storeMode => 5
  | .wear => 6
  | .lost => 7

def StoreMode.code : StoreMode → Byte
  | .mounting => 0
  | .ready => 1
  | .readOnly => 2
  | .formatting => 3
  | .unformatted => 4
  | .halted => 5

def StartCause.code : StartCause → Byte
  | .powerOn => 1
  | .resetPin => 2
  | .restartRequest => 3
  | .supplyReturn => 4

def RecClass.code : RecClass → Byte
  | .plain => 0
  | .service => 1
  | .once => 2
  | .counter => 3

/-- A class field: a value outside the four is none (R74). -/
def RecClass.ofCode (b : Byte) : Option RecClass :=
  if b = 0 then some .plain else if b = 1 then some .service else if b = 2 then some .once else if b = 3 then some .counter else none

def Privilege.code : Privilege → Byte
  | .read => 1
  | .write => 2
  | .service => 3

/-- A privilege field of a request: 00H and every other value outside READ, WRITE and SERVICE is none (10.2.3). -/
def Privilege.ofCode (b : Byte) : Option Privilege :=
  if b = 1 then some .read else if b = 2 then some .write else if b = 3 then some .service else none

/-- READ below WRITE below SERVICE (R54). -/
def Privilege.rank : Privilege → Nat
  | .read => 1
  | .write => 2
  | .service => 3

def SessionState.code : SessionState → Byte
  | .none => 0
  | .opened => 1
  | .committing => 2

def HeldKind.code : HeldKind → Byte
  | .commit => 0x40
  | .format => 0x61

def Tenancy.code : Tenancy → Byte
  | .none => 0
  | .scan => 1
  | .commit => 2
  | .move => 3
  | .erase => 4
  | .format => 5

/-- The staged operations (10.2.3). -/
def StagedOp.code : StagedOp → Byte
  | .put .. => 0
  | .delete .. => 1
  | .add .. => 2

/-- The request kinds (R179, 10.2.1). -/
inductive ReqKind
  | status | notices | ack | openSession | renew | close | read | list | put | append | add | delete | drop | staged | abort
  | commit | watch | unwatch | reclaim | format | restart
  deriving DecidableEq, Repr

def ReqKind.code : ReqKind → Byte
  | .status => 0x01
  | .notices => 0x02
  | .ack => 0x03
  | .openSession => 0x10
  | .renew => 0x11
  | .close => 0x12
  | .read => 0x20
  | .list => 0x21
  | .put => 0x30
  | .append => 0x31
  | .add => 0x32
  | .delete => 0x33
  | .drop => 0x34
  | .staged => 0x35
  | .abort => 0x36
  | .commit => 0x40
  | .watch => 0x50
  | .unwatch => 0x51
  | .reclaim => 0x60
  | .format => 0x61
  | .restart => 0x62

def ReqKind.all : List ReqKind :=
  [.status, .notices, .ack, .openSession, .renew, .close, .read, .list, .put, .append, .add, .delete, .drop, .staged, .abort,
    .commit, .watch, .unwatch, .reclaim, .format, .restart]

/-- The request kind of a kind byte; none where the byte is no code of R179. -/
def ReqKind.ofCode (b : Byte) : Option ReqKind :=
  ReqKind.all.find? fun k => k.code == b

/-- The kind of a request (R179). -/
def kindOf : Request → ReqKind
  | .status => .status
  | .notices => .notices
  | .ack _ => .ack
  | .openSession _ _ => .openSession
  | .renew _ _ => .renew
  | .close => .close
  | .read _ _ _ => .read
  | .list _ _ => .list
  | .put _ _ _ _ => .put
  | .append _ _ => .append
  | .add _ _ => .add
  | .delete _ _ => .delete
  | .drop _ => .drop
  | .staged => .staged
  | .abort => .abort
  | .commit => .commit
  | .watch _ => .watch
  | .unwatch _ => .unwatch
  | .reclaim => .reclaim
  | .format => .format
  | .restart => .restart

/-- The kind byte of a reply (R178, R179): the request's kind plus 80H, or FFH for a request of kind 80H or above. -/
def replyKind (kind : Byte) : Byte :=
  bif kind.msb then 0xFF else kind + 0x80

/-- The bytes of the fixed part of a reply after its result code (R183). -/
def ReqKind.fixedPart : ReqKind → Nat
  | .status => 38
  | .notices => 1
  | .ack => 3
  | .openSession => 4
  | .renew => 5
  | .close => 3
  | .read => 7
  | .list => 3
  | .put => 5
  | .add => 5
  | .delete => 5
  | .drop => 5
  | .append => 3
  | .staged => 1
  | .abort => 1
  | .commit => 8
  | .watch => 1
  | .unwatch => 1
  | .reclaim => 1
  | .format => 0
  | .restart => 0

end Sys2Proof.Machine
end

