-- ==== Sys2Proof/Machine/Ops.lean ====
section
/-!
DEFINITION. The named operations over the array's bytes, over the two copies of what each link has, and over the fields of the state that
several blocks reach.
-/

namespace Sys2Proof.Machine

/-! ### Memory: the bytes of the array (R25) -/

abbrev Memory := List Host.Cell

namespace Memory

/-- What a byte that is not listed reads as: an erased unit reads as bytes of FFH (R25). -/
def blankByte : Byte := 0xFF

/-- The canonical form: addresses strictly rising, and no entry equal to what an unlisted address reads as. -/
abbrev wf (m : Memory) : Prop :=
  m.Pairwise (fun a b => a.1 < b.1) ∧ ∀ c ∈ m, c.2 ≠ blankByte

def read : Memory → Nat → Byte
  | [], _ => blankByte
  | c :: m, a => if c.1 = a then c.2 else read m a

def write : Memory → Nat → Byte → Memory
  | [], a, b => if b = blankByte then [] else [(a, b)]
  | c :: m, a, b =>
    if a < c.1 then (if b = blankByte then c :: m else (a, b) :: c :: m)
    else if a = c.1 then (if b = blankByte then m else (a, b) :: m)
    else c :: write m a b

/-- Bytes written one after another from an address on. -/
def writeBytes (m : Memory) (a : Nat) : List Byte → Memory
  | [] => m
  | b :: bs => writeBytes (m.write a b) (a + 1) bs

/-- Every byte from `lo` up to `hi` becomes blank. -/
def eraseRange (m : Memory) (lo hi : Nat) : Memory :=
  m.filter fun c => decide (c.1 < lo) || decide (hi ≤ c.1)

/-- Every byte from `lo` up to `hi` reads blank. -/
def isBlank (m : Memory) (lo hi : Nat) : Bool :=
  m.all fun c => decide (c.1 < lo) || decide (hi ≤ c.1) || c.2 == blankByte

/-- `n` bytes from an address on. -/
def readBytes (m : Memory) (a : Nat) : Nat → List Byte
  | 0 => []
  | n + 1 => m.read a :: readBytes m (a + 1) n

end Memory

/-- The address of a unit (R25). -/
def unitAddress (i : Sector) (u : Nat) : Nat :=
  i.val * Config.sectorBytes + u * Config.unitBytes

def sectorStart (i : Sector) : Nat :=
  i.val * Config.sectorBytes

def sectorEnd (i : Sector) : Nat :=
  i.val * Config.sectorBytes + Config.sectorBytes

/-- The sectors in ascending number. -/
def allSectors : List Sector :=
  List.finRange 48

/-! ### Per link -/

def PerLink.get {α : Type} (x : PerLink α) : Link → α
  | .p => x.p
  | .s => x.s

def PerLink.set {α : Type} (x : PerLink α) (l : Link) (a : α) : PerLink α :=
  match l with
  | .p => { x with p := a }
  | .s => { x with s := a }

namespace State

def link (s : State) (l : Link) : LinkState :=
  s.links.get l

def setLink (s : State) (l : Link) (k : LinkState) : State :=
  { s with links := s.links.set l k }

def row (s : State) (l : Link) : SessionRow :=
  s.sessions.get l

def setRow (s : State) (l : Link) (r : SessionRow) : State :=
  { s with sessions := s.sessions.set l r }

def noticeQueue (s : State) (l : Link) : NoticeQueue :=
  s.notices.get l

/-- The one way a notice queue changes: its line is active exactly while it is not empty (R159, R166). -/
def setNotices (s : State) (l : Link) (entries : List Notice) : State :=
  { s with notices := s.notices.set l { entries := entries, attn := !entries.isEmpty } }

def setPins (s : State) (p : Pins) : State :=
  { s with pins := p }

def setSessionCounter (s : State) (n : Half) : State :=
  { s with sessionCounter := n }

def setDirectory (s : State) (d : List DirEntry) : State :=
  { s with directory := d }

def setCommit (s : State) (c : CommitEngine) : State :=
  { s with commit := c }

def setReclaim (s : State) (r : Reclaimer) : State :=
  { s with reclaim := r }

def setArray (s : State) (a : ArrayUnit) : State :=
  { s with array := a }

def setMount (s : State) (m : MountUnit) : State :=
  { s with mount := m }

def setSupply (s : State) (u : SupplyState) : State :=
  { s with supply := u }

def setFreeCount (s : State) (n : Nat) : State :=
  { s with freeCount := n }

def setQueue (s : State) (q : List CommitJob) : State :=
  s.setCommit { s.commit with queue := q }

def setNextTxn (s : State) (n : Word) : State :=
  s.setCommit { s.commit with nextTxn := n }

def setTable (s : State) (t : SectorTable) : State :=
  s.setArray { s.array with table := t }

def setMem (s : State) (m : Memory) : State :=
  s.setArray { s.array with mem := m }

def setTenancy (s : State) (t : Tenancy) : State :=
  s.setArray { s.array with tenancy := t }

def setEpoch (s : State) (e : Option Word) : State :=
  s.setArray { s.array with epoch := e }

def setNextSeq (s : State) (n : Word) : State :=
  s.setArray { s.array with nextSeq := n }

/-- The part-wide retired set, and whether some activation record carries it (R36, R43). -/
def setRetired (s : State) (r : BitVec 48) (recorded : Bool) : State :=
  s.setArray { s.array with retiredSet := r, recorded := recorded }

/-- An array operation begins (R30): its timer starts. -/
def startOp (s : State) (op : ArrayOp) : State :=
  s.setArray { s.array with op := some op, opTimer := 0 }

/-- The operation in flight has ended. -/
def clearOp (s : State) : State :=
  s.setArray { s.array with op := none, opTimer := 0 }

def setMode (s : State) (m : StoreMode) : State :=
  s.setMount { s.mount with mode := m }

/-- The part works: supply is in range and RESET is not asserted (R136). -/
def running (s : State) : Bool :=
  s.pins.supplied && !s.pins.resetAsserted

/-- No further array operation and no grant: HALTED (R47, R150) or an accepted RESTART (R153). -/
def stopped (s : State) : Bool :=
  s.mount.mode == .halted || s.mount.restart != .none

/-- READY or READ-ONLY (R116 to R118). -/
def inService (s : State) : Bool :=
  s.mount.mode == .ready || s.mount.mode == .readOnly

/-! ### Bytes of units in an unknown state (R30; log 9) -/

/-- `n` free bytes, none of them taken before. -/
def freeBytes (s : State) (n : Nat) : List Byte :=
  (List.range n).map fun i => Config.freeByte (s.freeCount + i)

/-- `n` bytes from an address on become free bytes. -/
def scribble (s : State) (a n : Nat) : State :=
  (s.setMem (Memory.writeBytes s.array.mem a (s.freeBytes n))).setFreeCount (s.freeCount + n)

end State

end Sys2Proof.Machine
end

