-- ==== Sys2Proof/Machine/Sessions.lean ====
section
/-!
DEFINITION. The session table, the lease and the staging pool as shared operations (R49, R50, R56, R57, R62, R66).
-/

namespace Sys2Proof.Machine

/-- A row that holds a session: not NONE, not orphaned (R49, R51). -/
def SessionRow.holdsSession (r : SessionRow) : Bool :=
  r.state != .none && !r.orphaned

/-- Body bytes that a staged entry holds (R66). -/
def StagedEntry.bytes (e : StagedEntry) : Nat :=
  match e.op with
  | .put _ _ body _ => body.length
  | .delete _ => 0
  | .add _ => 0

def stagedBytes (l : List StagedEntry) : Nat :=
  (l.map StagedEntry.bytes).sum

/-- The entry of a key in a staging list. -/
def findStaged (l : List StagedEntry) (k : Key) : Option StagedEntry :=
  l.find? fun e => e.key == k

/-- R69: a new key goes to the end, a key in the list keeps its place. -/
def stage (l : List StagedEntry) (e : StagedEntry) : List StagedEntry :=
  match findStaged l e.key with
  | some _ => l.map fun x => if x.key = e.key then e else x
  | none => l ++ [e]

/-- R69: an entry is removed and those after it close up. -/
def unstage (l : List StagedEntry) (k : Key) : List StagedEntry :=
  l.filter fun e => e.key != k

namespace State

/-- R62: the row is emptied. -/
def endRow (s : State) (l : Link) : State :=
  s.setRow l .none

def setStaging (s : State) (l : Link) (staging : List StagedEntry) : State :=
  s.setRow l { s.row l with staging := staging }

/-- R66. -/
def poolFreeSlots (s : State) : Nat :=
  Config.poolSlots - ((s.row .p).staging.length + (s.row .s).staging.length)

/-- R66. -/
def poolFreeBytes (s : State) : Nat :=
  Config.poolBytes - (stagedBytes (s.row .p).staging + stagedBytes (s.row .s).staging)

/-- R56: an OPEN session's lease stands at its full period; a suspended one stays there (R57). -/
def restartLease (s : State) (l : Link) : State :=
  let r := s.row l
  if r.state = .opened then s.setRow l { r with leaseRemaining := r.leasePeriod.map (· * 1000) } else s

/-- R57: the lease of a session falls unless it is COMMITTING or its link holds a FORMAT. -/
def leaseRuns (s : State) (l : Link) : Bool :=
  (s.row l).state == .opened &&
    (match (s.link l).held with
     | some h => h.kind != .format
     | none => true)

end State

/-- R50: the number after a number, from FFFFH to 0001H. -/
def nextSession (n : Half) : Half :=
  if n = 0xFFFF then 1 else n + 1

/-- R50: the number a new session on link `l` takes. -/
def State.newSession (s : State) (l : Link) : Half :=
  if (s.row l.other).number = some s.sessionCounter then nextSession s.sessionCounter else s.sessionCounter

end Sys2Proof.Machine
end

