-- ==== Sys2Proof/Machine/Links.lean ====
section
/-!
DEFINITION. What a link does with replies: frames built and placed (R176 to R178, R181), the full queue, the held reply (R177).
-/

namespace Sys2Proof.Machine

/-- R181: a frame with its length and check. -/
def Frame.make (sequence kind : Byte) (body : List Byte) : Frame :=
  { sequence := sequence, kind := kind, body := body,
    check := crc16 (BitVec.ofNat 8 body.length :: sequence :: kind :: body) }

/-- R181: a frame as the bytes of the line: start byte, body length, sequence, kind, body, check with its high byte first. -/
def Frame.bytes (f : Frame) : List Byte :=
  0xC3 :: BitVec.ofNat 8 f.body.length :: f.sequence :: f.kind :: f.body ++ be16 f.check

/-- R178, R184: the transmitter sends the oldest frame of the queue; with none the line is idle, at mark. -/
def txOf : List Frame → TxLine
  | [] => .mark
  | f :: _ => .sending f.bytes

/-- The one way a reply queue changes: its transmit line follows it (R178). -/
def LinkState.withReplies (k : LinkState) (replies : List Frame) : LinkState :=
  { k with replies := replies, tx := txOf replies }

/-- R177, R178: the frames in the reply queue with the reserved place. -/
def LinkState.repliesTaken (k : LinkState) : Nat :=
  k.replies.length + (if k.held.isSome then 1 else 0)

namespace State

/-- R176: a reply placed in the queue is also the cached reply. -/
def placeFrame (s : State) (l : Link) (f : Frame) : State :=
  let k := s.link l
  s.setLink l { k.withReplies (k.replies ++ [f]) with cache := some f }

/-- The reply to a request of a known kind with this sequence: result code, then the rest of its body (R183). -/
def answer (s : State) (l : Link) (sq : Byte) (kind : ReqKind) (r : Result) (rest : List Byte) : State :=
  s.placeFrame l (.make sq (replyKind kind.code) (r.code :: rest))

/-- R183: a refused reply carries the fixed part as zeros. -/
def refuse (s : State) (l : Link) (sq : Byte) (kind : ReqKind) (r : Result) : State :=
  s.answer l sq kind r (List.replicate kind.fixedPart 0)

/-- R177: a request is held. -/
def hold (s : State) (l : Link) (kind : HeldKind) (sq : Byte) : State :=
  s.setLink l { s.link l with held := some { kind := kind, sequence := sq } }

/-- R177: the held reply is placed in the reserved place and the held slot is emptied; after a break there is none. -/
def placeHeld (s : State) (l : Link) (r : Result) (rest : List Byte) : State :=
  match (s.link l).held with
  | none => s
  | some h =>
    (s.setLink l { s.link l with held := none }).placeFrame l (.make h.sequence (replyKind h.kind.code) (r.code :: rest))

/-- The framer in HUNT with no frame in progress (R170 to R173). -/
def huntLink (s : State) (l : Link) : State :=
  s.setLink l { s.link l with framer := .hunt, frame := .start }

def raiseOverrun (s : State) (l : Link) : State :=
  s.setLink l { s.link l with overrunCount := riseToMax (s.link l).overrunCount }

def raiseCheck (s : State) (l : Link) : State :=
  s.setLink l { s.link l with checkCount := riseToMax (s.link l).checkCount }

def raiseGap (s : State) (l : Link) : State :=
  s.setLink l { s.link l with gapCount := riseToMax (s.link l).gapCount }

/-- R136, R184: both transmit lines held at mark; a reply being sent stops at once. -/
def holdLines (s : State) : State :=
  (s.setLink .p { s.link .p with tx := .mark }).setLink .s { s.link .s with tx := .mark }

/-- The link takes bytes and executes requests: the part runs and the detector is not in BREAK (R136, R174). -/
def linkTakes (s : State) (l : Link) : Bool :=
  s.running && (s.link l).line != .broken

end State

end Sys2Proof.Machine
end

