-- ==== Sys2Proof/Machine/Images.lean ====
section
/-!
DEFINITION. Erase records, activation records and images as bytes of the array (R26 to R29), and the read path (R34). The spec gives the
fields, their order and the check; the kind codes and the width of a field where the spec gives none are the model's (log 8).
-/

namespace Sys2Proof.Machine

/-! ### Sizes (R28, R97) -/

/-- Units that `n` body bytes take. -/
def bodyUnits (n : Nat) : Nat :=
  (n + 15) / 16

/-- The size in units of a RECORD, or of a COPY of one, whose body has `n` bytes. -/
def recordUnits (n : Nat) : Nat :=
  1 + bodyUnits n

def Image.units : Image → Nat
  | .record _ _ body _ => recordUnits body.length
  | .void _ _ => 1
  | .mark _ _ => 1
  | .copyRecord _ _ body _ => recordUnits body.length
  | .copyVoid _ _ => 1

/-- The key an image is of; a MARK is of none. -/
def Image.key? : Image → Option Key
  | .record _ key _ _ => some key
  | .void key _ => some key
  | .mark _ _ => none
  | .copyRecord _ key _ _ => some key
  | .copyVoid key _ => some key

/-- The generation an image carries; for a MARK its transaction number (R28). -/
def Image.number : Image → Word
  | .record _ _ _ g => g
  | .void _ g => g
  | .mark n _ => n
  | .copyRecord _ _ _ g => g
  | .copyVoid _ g => g

/-- What an image makes of the entry of its key (R14, R15, R18). -/
def Image.entryBody? : Image → Option EntryBody
  | .record cls _ body _ => some (.live cls body.length)
  | .void _ _ => some .deleted
  | .mark _ _ => none
  | .copyRecord cls _ body _ => some (.live cls body.length)
  | .copyVoid _ _ => some .deleted

/-- The COPY of an image: the inner kind, class, key, body and generation of the image read; a COPY of a COPY has the inner kind of its
source (R125). A MARK is not copied. -/
def Image.copyOf : Image → Image
  | .record cls key body g => .copyRecord cls key body g
  | .void key g => .copyVoid key g
  | .mark n c => .mark n c
  | .copyRecord cls key body g => .copyRecord cls key body g
  | .copyVoid key g => .copyVoid key g

/-- Class and body of a RECORD or a COPY of a RECORD. -/
def Image.recordBody? : Image → Option (RecClass × List Byte)
  | .record cls _ body _ => some (cls, body)
  | .copyRecord cls _ body _ => some (cls, body)
  | .void _ _ => none
  | .mark _ _ => none
  | .copyVoid _ _ => none

/-! ### Fields as bytes (log 8) -/

/-- Bytes filled up with 00H to whole units. -/
def padUnits (bs : List Byte) : List Byte :=
  bs ++ List.replicate (bodyUnits bs.length * 16 - bs.length) 0

/-- The fields of an image header in the order of R28, its check apart. -/
def Image.fields : Image → List Byte
  | .record cls key body g => 0x01 :: cls.code :: be16 key ++ be16 (BitVec.ofNat 16 body.length) ++ be32 g
  | .void key g => 0x02 :: be16 key ++ be32 g
  | .mark n count => 0x03 :: be32 n ++ [BitVec.ofNat 8 count]
  | .copyRecord cls key body g => 0x04 :: 0x01 :: cls.code :: be16 key ++ be16 (BitVec.ofNat 16 body.length) ++ be32 g
  | .copyVoid key g => 0x04 :: 0x02 :: be16 key ++ be32 g

/-- The body bytes in whole units, 00H beyond the body length (R28). -/
def Image.bodyBytes (img : Image) : List Byte :=
  match img.recordBody? with
  | some (_, body) => padUnits body
  | none => []

/-- The units of an image: header fields, check over fields and body, 00H to the unit's end, body units (R26, R28). -/
def Image.bytes (img : Image) : List Byte :=
  padUnits (img.fields ++ be16 (crc16 (img.fields ++ img.bodyBytes))) ++ img.bodyBytes

/-- R26: epoch, erase count, check. -/
def eraseRecordBytes (epoch : Word) (count : Nat) : List Byte :=
  padUnits (be32 epoch ++ be32 (BitVec.ofNat 32 count) ++ be16 (crc16 (be32 epoch ++ be32 (BitVec.ofNat 32 count))))

/-- R27: sector sequence, retired set, check. R27 gives one flag for each sector number and not its place: DESIGN CHOICE (log 8), sector `i` at bit
`i` of a number stored most significant byte first. -/
def activationBytes (sequence : Word) (retired : BitVec 48) : List Byte :=
  padUnits (be32 sequence ++ be48 retired ++ be16 (crc16 (be32 sequence ++ be48 retired)))

/-! ### Ranges -/

/-- R1: 0001H to FFFEH. -/
def keyInRange (k : Key) : Bool :=
  k != 0 && k != 0xFFFF

/-- Generations, transaction numbers, epochs and sequences run from 00000001H to FFFFFFFEH (R6, R26, R27, R28). -/
def numberInRange (w : Word) : Bool :=
  w != 0 && w != 0xFFFFFFFF

/-- R5, R28: 0 to 496, exactly 4 for a COUNTER. -/
def lengthInRange (cls : RecClass) (n : Nat) : Bool :=
  match cls with
  | .counter => n == 4
  | _ => decide (n ≤ Config.maxBody)

/-! ### Heads -/

/-- A valid erase record: epoch and erase count (R26). -/
def parseEraseRecord : List Byte → Option (Word × Nat)
  | e3 :: e2 :: e1 :: e0 :: n3 :: n2 :: n1 :: n0 :: c1 :: c0 :: _ =>
    if crc16 [e3, e2, e1, e0, n3, n2, n1, n0] = toHalf c1 c0 && numberInRange (toWord e3 e2 e1 e0) then
      some (toWord e3 e2 e1 e0, (toWord n3 n2 n1 n0).toNat)
    else none
  | _ => none

/-- A valid activation record: sector sequence and retired set (R27). -/
def parseActivation : List Byte → Option (Word × BitVec 48)
  | q3 :: q2 :: q1 :: q0 :: r5 :: r4 :: r3 :: r2 :: r1 :: r0 :: c1 :: c0 :: _ =>
    if crc16 [q3, q2, q1, q0, r5, r4, r3, r2, r1, r0] = toHalf c1 c0 && numberInRange (toWord q3 q2 q1 q0) then
      some (toWord q3 q2 q1 q0, r5 ++ r4 ++ r3 ++ r2 ++ r1 ++ r0)
    else none
  | _ => none

def readUnit (m : Memory) (i : Sector) (u : Nat) : List Byte :=
  Memory.readBytes m (unitAddress i u) 16

def readEraseRecord (m : Memory) (i : Sector) : Option (Word × Nat) :=
  parseEraseRecord (readUnit m i 0)

def readActivation (m : Memory) (i : Sector) : Option (Word × BitVec 48) :=
  parseActivation (readUnit m i 1)

def unitBlank (m : Memory) (i : Sector) (u : Nat) : Bool :=
  Memory.isBlank m (unitAddress i u) (unitAddress i (u + 1))

/-- Every unit from `u` to the sector's end is blank. -/
def blankFrom (m : Memory) (i : Sector) (u : Nat) : Bool :=
  Memory.isBlank m (unitAddress i u) (sectorEnd i)

/-! ### The read path (R34) -/

inductive ReadResult
  | valid (img : Image)
  | blank
  | fill
  | invalid
  deriving DecidableEq, Repr

/-- An image is VALID when its fields are in range, its units end inside the sector and its check is good: `check` is the check as read,
`padded` the body units as read. -/
def acceptImage (u : Nat) (check : Half) (padded : List Byte) (img : Image) (inRange : Bool) : ReadResult :=
  if inRange && decide (u + img.units ≤ Config.sectorUnits) && crc16 (img.fields ++ padded) == check then .valid img else .invalid

/-- A header of class, key, length, generation and check (RECORD, and COPY of a RECORD), with the body read from the units after it. -/
def readRecord (m : Memory) (i : Sector) (u : Nat) (build : RecClass → Key → List Byte → Word → Image) : List Byte → ReadResult
  | cls :: k1 :: k0 :: l1 :: l0 :: g3 :: g2 :: g1 :: g0 :: c1 :: c0 :: _ =>
    match RecClass.ofCode cls with
    | none => .invalid
    | some c =>
      let n := (toHalf l1 l0).toNat
      if lengthInRange c n && decide (u + recordUnits n ≤ Config.sectorUnits) then
        let padded := Memory.readBytes m (unitAddress i (u + 1)) (16 * bodyUnits n)
        acceptImage u (toHalf c1 c0) padded (build c (toHalf k1 k0) (padded.take n) (toWord g3 g2 g1 g0))
          (keyInRange (toHalf k1 k0) && numberInRange (toWord g3 g2 g1 g0))
      else .invalid
  | _ => .invalid

/-- A header of key, generation and check (VOID, and COPY of a VOID). -/
def readVoid (u : Nat) (build : Key → Word → Image) : List Byte → ReadResult
  | k1 :: k0 :: g3 :: g2 :: g1 :: g0 :: c1 :: c0 :: _ =>
    acceptImage u (toHalf c1 c0) [] (build (toHalf k1 k0) (toWord g3 g2 g1 g0))
      (keyInRange (toHalf k1 k0) && numberInRange (toWord g3 g2 g1 g0))
  | _ => .invalid

/-- A MARK's header: transaction number, image count 1 to 16, check. -/
def readMark (u : Nat) : List Byte → ReadResult
  | n3 :: n2 :: n1 :: n0 :: count :: c1 :: c0 :: _ =>
    acceptImage u (toHalf c1 c0) [] (.mark (toWord n3 n2 n1 n0) count.toNat)
      (numberInRange (toWord n3 n2 n1 n0) && decide (1 ≤ count.toNat) && decide (count.toNat ≤ 16))
  | _ => .invalid

/-- The image that begins with the header bytes `h` at unit `u`. -/
def readHeader (m : Memory) (i : Sector) (u : Nat) (h : List Byte) : ReadResult :=
  match h with
  | kind :: rest =>
    if kind = 0x01 then readRecord m i u .record rest
    else if kind = 0x02 then readVoid u .void rest
    else if kind = 0x03 then readMark u rest
    else if kind = 0x04 then
      match rest with
      | inner :: rest' =>
        if inner = 0x01 then readRecord m i u .copyRecord rest'
        else if inner = 0x02 then readVoid u .copyVoid rest'
        else .invalid
      | [] => .invalid
    else .invalid
  | [] => .invalid

/-- R34: what the read path returns for the image or unit at `u`. -/
def readImage (m : Memory) (i : Sector) (u : Nat) : ReadResult :=
  let h := readUnit m i u
  if unitBlank m i u then .blank
  else if h.all (· == 0) then .fill
  else readHeader m i u h

/-! ### Programming -/

/-- The bytes of a sector's unit `u` on become the image's (R31, outcome DONE). -/
def State.writeImage (s : State) (loc : Location) (img : Image) : State :=
  s.setMem (Memory.writeBytes s.array.mem (unitAddress loc.sector loc.unit) img.bytes)

/-- `n` units become all 00H (R32, the fill). -/
def State.writeFill (s : State) (loc : Location) (n : Nat) : State :=
  s.setMem (Memory.writeBytes s.array.mem (unitAddress loc.sector loc.unit) (List.replicate (n * 16) 0))

/-- A head unit is written whole. -/
def State.writeHead (s : State) (i : Sector) (u : Nat) (bytes : List Byte) : State :=
  s.setMem (Memory.writeBytes s.array.mem (unitAddress i u) bytes)

/-- Every unit of a sector becomes blank (R33, outcome DONE). -/
def State.blankSector (s : State) (i : Sector) : State :=
  s.setMem (Memory.eraseRange s.array.mem (sectorStart i) (sectorEnd i))

/-- `n` units are left in an unknown state (R30). -/
def State.scribbleUnits (s : State) (i : Sector) (u n : Nat) : State :=
  s.scribble (unitAddress i u) (n * 16)

end Sys2Proof.Machine
end

