-- ==== Sys2Proof/Machine/Sectors.lean ====
section
/-!
DEFINITION. The sector table (R35 to R38) and the choice of a sector to activate (R39).
-/

namespace Sys2Proof.Machine

namespace State

/-- The row of a sector. -/
def sec (s : State) (i : Sector) : SectorRow :=
  s.array.table[i.val]

def setSec (s : State) (i : Sector) (r : SectorRow) : State :=
  s.setTable (s.array.table.set i.val r i.isLt)

def inState (s : State) (st : SectorState) (i : Sector) : Bool :=
  (s.sec i).state == st

/-- The sectors in a state, in ascending number. -/
def sectorsIn (s : State) (st : SectorState) : List Sector :=
  allSectors.filter (s.inState st)

def countState (s : State) (st : SectorState) : Nat :=
  (s.sectorsIn st).length

def erasedCount (s : State) : Nat :=
  s.countState .erased

/-- Sectors not RETIRED (R44). -/
def standing (s : State) : Nat :=
  48 - s.countState .retired

/-- At most one sector is ACTIVE (R39). -/
def activeSector (s : State) : Option Sector :=
  allSectors.find? (s.inState .active)

end State

/-- Free units of a sector that takes images: 256 less its next free unit (R31). -/
def SectorRow.free (r : SectorRow) : Nat :=
  Config.sectorUnits - r.nextFree

namespace State

/-- The free units of the ACTIVE sector, 0 with none (R35). -/
def activeFree (s : State) : Nat :=
  match s.activeSector with
  | some i => (s.sec i).free
  | none => 0

/-- The waste of the ACTIVE sector and of every FULL sector (R35). -/
def totalWaste (s : State) : Nat :=
  ((allSectors.filter fun i => s.inState .active i || s.inState .full i).map fun i => (s.sec i).waste).sum

/-- R37. -/
def addWaste (s : State) (i : Sector) (n : Nat) : State :=
  s.setSec i { s.sec i with waste := (s.sec i).waste + n }

def setSecState (s : State) (i : Sector) (st : SectorState) : State :=
  s.setSec i { s.sec i with state := st }

def setRetirePending (s : State) (i : Sector) : State :=
  s.setSec i { s.sec i with retirePending := true }

/-- R38: the sector becomes FULL and its free units become waste. -/
def closeSector (s : State) (i : Sector) : State :=
  s.setSec i { s.sec i with state := .full, waste := (s.sec i).waste + (s.sec i).free, nextFree := Config.sectorUnits }

def closeActive (s : State) : State :=
  match s.activeSector with
  | some i => s.closeSector i
  | none => s

end State

/-- The row of a sector that has been erased and given its erase record (R33, R145, R147). -/
def SectorRow.erasedRow (count : Nat) : SectorRow :=
  { SectorRow.start with eraseCount := count }

/-- The best of a list: the first one that no other one betters. -/
def pick (better : Sector → Sector → Bool) (l : List Sector) : Option Sector :=
  l.foldl (fun best i =>
    match best with
    | none => some i
    | some b => if better i b then some i else some b) none

namespace State

/-- R39: of the ERASED sectors the one with the lowest erase count, then the lowest number. -/
def chooseErased (s : State) : Option Sector :=
  pick (fun i b => decide ((s.sec i).eraseCount < (s.sec b).eraseCount)) (s.sectorsIn .erased)

/-- Whether a count is at the wear limit (R41). -/
def worn (s : State) (i : Sector) : Bool :=
  decide (Config.wearLimit ≤ (s.sec i).eraseCount)

end State

end Sys2Proof.Machine
end

