-- ==== Sys2Proof/Machine/Directory.lean ====
section
/-!
DEFINITION. The record directory: its order and the transitions that the other blocks invoke (R7 to R19).
-/

namespace Sys2Proof.Machine

/-- The sizes an entry's current image has (R12). -/
def EntryBody.units : EntryBody → Nat
  | .live _ n => recordUnits n
  | .deleted => 1

def EntryBody.isLive : EntryBody → Bool
  | .live _ _ => true
  | .deleted => false

namespace Directory

def find (d : List DirEntry) (k : Key) : Option DirEntry :=
  d.find? fun e => e.key == k

/-- The LIVE entry of a key: its class and length, with the entry. -/
def live (d : List DirEntry) (k : Key) : Option (RecClass × DirEntry) :=
  match find d k with
  | some e =>
    match e.body with
    | .live cls _ => some (cls, e)
    | .deleted => none
  | none => none

/-- The entry in its place in ascending key order; an entry of the same key is replaced (R7). -/
def put : List DirEntry → DirEntry → List DirEntry
  | [], e => [e]
  | x :: d, e =>
    if e.key.toNat < x.key.toNat then e :: x :: d
    else if e.key = x.key then e :: d
    else x :: put d e

/-- One entry changed where it stands; its key does not change. -/
def update (d : List DirEntry) (k : Key) (f : DirEntry → DirEntry) : List DirEntry :=
  d.map fun e => if e.key = k then { f e with key := k } else e

def liveCount (d : List DirEntry) : Nat :=
  (d.filter fun e => e.body.isLive).length

def deletedCount (d : List DirEntry) : Nat :=
  (d.filter fun e => !e.body.isLive).length

/-- Free places (R7). -/
def freePlaces (d : List DirEntry) : Nat :=
  Config.places - d.length

end Directory

/-- A superseded image counts as stale where its sector is one of these (R12). -/
def SectorState.counted : SectorState → Bool
  | .active => true
  | .full => true
  | .victim => true
  | .erased => false
  | .moved => false
  | .erasing => false
  | .retired => false

namespace State

/-- R12: the entry's current image stops being current. -/
def supersede (s : State) (e : DirEntry) : State × DirEntry :=
  if (s.sec e.location.sector).state.counted then
    (s.addWaste e.location.sector e.body.units, { e with stale := e.stale + 1, dropPending := false })
  else (s, { e with dropPending := false })

/-- The key's entry takes an image as its current one: an entry created, or the entry's image superseded (R14, R15, R18). -/
def takeImage (s : State) (key : Key) (body : EntryBody) (generation : Word) (loc : Location) : State :=
  match Directory.find s.directory key with
  | none =>
    s.setDirectory (Directory.put s.directory
      { key := key, body := body, generation := generation, location := loc, stale := 0, dropPending := false })
  | some e =>
    let (t, e') := s.supersede e
    t.setDirectory (Directory.put t.directory { e' with body := body, generation := generation, location := loc })

/-- R14, R15: the apply of the image that a commit has written. -/
def applyImage (s : State) (img : Image) (loc : Location) : State :=
  match img.key?, img.entryBody? with
  | some key, some body => s.takeImage key body img.number loc
  | _, _ => s

/-- R18: the scan's offer of an image. -/
def offer (s : State) (img : Image) (loc : Location) : State :=
  match img.key?, img.entryBody? with
  | some key, some body =>
    match Directory.find s.directory key with
    | none =>
      if s.directory.length < Config.places then s.takeImage key body img.number loc
      else s.addWaste loc.sector img.units
    | some e =>
      if e.generation.toNat ≤ img.number.toNat then s.takeImage key body img.number loc
      else (s.addWaste loc.sector img.units).setDirectory
        (Directory.update s.directory key fun e => { e with stale := e.stale + 1 })
  | _, _ => s

/-- R16. -/
def relocate (s : State) (key : Key) (loc : Location) : State :=
  s.setDirectory (Directory.update s.directory key fun e => { e with location := loc })

/-- R11: one key's number of stale images leaves its count, unless the count would fall below 0. -/
def releaseOne (s : State) (t : TallyItem) : State :=
  s.setDirectory (Directory.update s.directory t.key fun e =>
    if t.count ≤ e.stale then { e with stale := e.stale - t.count } else e)

def release (s : State) (tally : List TallyItem) : State :=
  tally.foldl releaseOne s

/-- R17: the void's drop is decided. -/
def markDrop (s : State) (key : Key) : State :=
  s.setDirectory (Directory.update s.directory key fun e => { e with dropPending := true })

/-- R17: at the erase grant every entry of the victim whose mark is still set is removed. -/
def removeDropped (s : State) (i : Sector) : State :=
  s.setDirectory (s.directory.filter fun e => !(e.dropPending && e.location.sector == i))

/-- R130: the marks set by a move phase that ends early are cleared. -/
def clearDropped (s : State) (i : Sector) : State :=
  s.setDirectory (s.directory.map fun e => if e.location.sector = i then { e with dropPending := false } else e)

/-- R130: a relocated original is counted stale. -/
def countStale (s : State) (i : Sector) (p : KeyedPlace) : State :=
  (s.addWaste i p.place.size).setDirectory
    (Directory.update s.directory p.key fun e => { e with stale := e.stale + 1 })

end State

end Sys2Proof.Machine
end

