-- ==== Sys2Proof/Machine/Notices.lean ====
section
/-!
DEFINITION. The notice queues: how a notice is taken (R161, R162) and the details of the kinds (R160).
-/

namespace Sys2Proof.Machine

/-- R162: kind, 00H, subject. -/
def lostDetail (kind : NoticeKind) (subject : Half) : Word :=
  kind.code ++ (0 : Byte) ++ subject

/-- A repeat count stops at 255 (R161, R162). -/
def raiseRepeat (n : Nat) : Nat :=
  if n < 255 then n + 1 else 255

def Notice.sameAs (n : Notice) (kind : NoticeKind) (subject : Half) : Bool :=
  n.kind == kind && n.subject == subject && n.kind != .lost

/-- R161: the four ways in which a queue takes a notice; the first that applies decides. -/
def takeNotice (q : List Notice) (kind : NoticeKind) (subject : Half) (detail : Word) : List Notice :=
  if q.any fun n => n.sameAs kind subject then
    q.map fun n =>
      if n.sameAs kind subject then { n with detail := detail, repeats := raiseRepeat n.repeats, seen := false } else n
  else if q.any fun n => n.kind == .lost then
    q.map fun n =>
      if n.kind == .lost then
        { n with detail := lostDetail kind subject, repeats := raiseRepeat n.repeats, seen := false }
      else n
  else if q.length < 7 then
    q ++ [{ kind := kind, subject := subject, detail := detail, repeats := 1, seen := false }]
  else
    q ++ [{ kind := .lost, subject := 0, detail := lostDetail kind subject, repeats := 1, seen := false }]

namespace State

def offerNotice (s : State) (l : Link) (kind : NoticeKind) (subject : Half) (detail : Word) : State :=
  s.setNotices l (takeNotice (s.noticeQueue l).entries kind subject detail)

/-- R160: a notice for both links is offered to each queue on its own. -/
def offerBoth (s : State) (kind : NoticeKind) (subject : Half) (detail : Word) : State :=
  (s.offerNotice .p kind subject detail).offerNotice .s kind subject detail

/-- R45: reason, erase count. -/
def wearNotice (s : State) (i : Sector) (reason : Byte) (count : Nat) : State :=
  s.offerBoth .wear (BitVec.ofNat 16 i.val) (reason ++ BitVec.ofNat 24 count)

/-- R110: result code, low 24 bits of the transaction number. -/
def commitResultNotice (s : State) (l : Link) (session : Half) (r : Result) (txn : Option Word) : State :=
  s.offerNotice l .commitResult session (r.code ++ (txn.getD 0).extractLsb' 0 24)

/-- R58. -/
def sessionEndedNotice (s : State) (l : Link) (session : Half) (discarded : Nat) : State :=
  s.offerNotice l .sessionEnded session (BitVec.ofNat 32 discarded)

/-- R44: the detail of STORE-MODE is the mode's code. -/
def storeModeNotice (s : State) (m : StoreMode) : State :=
  s.offerBoth .storeMode 0 (m.code.zeroExtend 32)

/-- R148. -/
def startedNotice (s : State) : State :=
  s.offerBoth .started (s.mount.cause.code.zeroExtend 16) (s.mount.flags.byte.zeroExtend 32)

end State

end Sys2Proof.Machine
end

