-- ==== Sys2Proof/Machine/Wear.lean ====
section
/-!
DEFINITION. How a walk of a sector tells stale images from dead ones (R127), and the wear and retirement of sectors (R41 to R45).
-/

namespace Sys2Proof.Machine

/-! ### Stale or dead (R127) -/

/-- One more stale image of a key. -/
def addTally : List TallyItem → Key → List TallyItem
  | [], k => [{ key := k, count := 1 }]
  | t :: ts, k => if t.key = k then { t with count := t.count + 1 } :: ts else t :: addTally ts k

def tallyImages (tally : List TallyItem) (images : List KeyedPlace) : List TallyItem :=
  images.foldl (fun t p => addTally t p.key) tally

/-- The image at a place is its key's current one (R125). -/
def isCurrent (d : List DirEntry) (key : Key) (loc : Location) : Bool :=
  match Directory.find d key with
  | some e => e.location == loc
  | none => false

/-- A commit image of generation `g` meets the open transaction; a current one is not listed. -/
def joinOpen (o : Option OpenTxn) (g : Word) (listed : List KeyedPlace) : Option OpenTxn :=
  match o with
  | some t => if t.number = g then some { t with images := t.images ++ listed } else some { number := g, images := listed }
  | none => some { number := g, images := listed }

/-- R127: what a VALID image does to the open transaction and to the stale tally. -/
def trackImage (d : List DirEntry) (loc : Location) (img : Image) (o : Option OpenTxn) (tally : List TallyItem) :
    Option OpenTxn × List TallyItem :=
  let listed (key : Key) : List KeyedPlace :=
    if isCurrent d key loc then [] else [{ key := key, place := { location := loc, size := img.units } }]
  match img with
  | .record _ key _ g => (joinOpen o g (listed key), tally)
  | .void key g => (joinOpen o g (listed key), tally)
  | .mark n _ =>
    match o with
    | some t => if t.number = n then (none, tallyImages tally t.images) else (none, tally)
    | none => (none, tally)
  | .copyRecord _ key _ _ => (none, if isCurrent d key loc then tally else addTally tally key)
  | .copyVoid key _ => (none, if isCurrent d key loc then tally else addTally tally key)

/-- R127: images still open at the end of the walk are stale if some sector is joined to this one. -/
def closeTally (joined : Bool) (o : Option OpenTxn) (tally : List TallyItem) : List TallyItem :=
  match o with
  | some t => if joined then tallyImages tally t.images else tally
  | none => tally

/-- Some sector is joined to sector `i` (R119). -/
def isPredecessor (span : Vector (Option Sector) 48) (i : Sector) : Bool :=
  allSectors.any fun j => span[j.val] == some i

/-- The stale images of a sector by key, from unit `u` on (R124, R127). -/
def staleTally (m : Memory) (d : List DirEntry) (joined : Bool) (i : Sector) :
    Nat → Nat → Option OpenTxn → List TallyItem → List TallyItem
  | 0, _, o, tally => closeTally joined o tally
  | n + 1, u, o, tally =>
    if Config.sectorUnits ≤ u then closeTally joined o tally
    else
      match readImage m i u with
      | .valid img =>
        let (o', tally') := trackImage d { sector := i, unit := u } img o tally
        staleTally m d joined i n (u + img.units) o' tally'
      | .fill => staleTally m d joined i n (u + 1) o tally
      | .blank => closeTally joined o tally
      | .invalid => closeTally joined o tally

/-! ### Retirement (R42 to R44) -/

/-- WEAR reasons (R45). -/
inductive WearReason
  | reached | eraseFailed | eraseRecordFailed | activationFailed | retirePending | worn | scan
  deriving DecidableEq, Repr

def WearReason.code : WearReason → Byte
  | .reached => 0
  | .eraseFailed => 1
  | .eraseRecordFailed => 2
  | .activationFailed => 3
  | .retirePending => 4
  | .worn => 5
  | .scan => 6

namespace State

/-- R42: stale images still counted in the sector leave the stale counts. -/
def releaseAtRetirement (s : State) (i : Sector) : State :=
  if (s.sec i).state.counted then
    s.release (staleTally s.array.mem s.directory (isPredecessor s.reclaim.span i) i Config.sectorUnits 2 none [])
  else s

/-- R43: the retired set gains a sector and is unrecorded. -/
def addRetired (s : State) (i : Sector) : State :=
  s.setRetired (s.array.retiredSet ||| (1#48 <<< i.val)) false

/-- R44: fewer than 6 sectors not RETIRED take READY to READ-ONLY. -/
def reconsiderMode (s : State) : State :=
  if s.mount.mode = .ready ∧ s.standing < Config.minSectors then (s.setMode .readOnly).storeModeNotice .readOnly else s

/-- R42: a sector is withdrawn from use. -/
def retire (s : State) (i : Sector) (reason : WearReason) : State :=
  let t := s.releaseAtRetirement i
  let t := t.setSec i { t.sec i with state := .retired, waste := 0 }
  ((t.addRetired i).wearNotice i reason.code (t.sec i).eraseCount).reconsiderMode

/-- R33, R41: at the end of an erase step, whatever its outcome, the count rises by 1; 90,000 gives a notice. -/
def raiseEraseCount (s : State) (i : Sector) : State :=
  let n := (s.sec i).eraseCount + 1
  let t := s.setSec i { s.sec i with eraseCount := n }
  if n = Config.wearNotice then t.wearNotice i WearReason.reached.code n else t

end State

end Sys2Proof.Machine
end

