-- ==== Sys2Proof/Machine/Placement.lean ====
section
/-!
DEFINITION. The array controller: placement of an image, activation, and what the end of each operation does to the array and to the
sector table (R31 to R33, R38 to R40). What the holder then does is in the holder's own file.
-/

namespace Sys2Proof.Machine

namespace State

/-- R39, R40: the activation record of the chosen sector is programmed for an image; false where no sector is ERASED. -/
def tryActivate (s : State) (img : Image) : State × Bool :=
  match s.chooseErased with
  | some i => (s.startOp (.activation i img), true)
  | none => (s, false)

/-- R31: an image is placed in the ACTIVE sector, or for it another sector is activated; false where none is available. -/
def place (s : State) (img : Image) : State × Bool :=
  match s.activeSector with
  | some i =>
    if img.units ≤ (s.sec i).free then (s.startOp (.image img { sector := i, unit := (s.sec i).nextFree }), true)
    else s.closeActive.tryActivate img
  | none => s.tryActivate img

/-- R31: the program of an image ended DONE. -/
def imageDone (s : State) (img : Image) (loc : Location) : State :=
  let t := s.clearOp.writeImage loc img
  t.setSec loc.sector { t.sec loc.sector with nextFree := (t.sec loc.sector).nextFree + img.units }

/-- R32: the sector's next free unit moves past a failed span, which is dead. -/
def killSpan (s : State) (i : Sector) (n : Nat) : State :=
  s.setSec i { s.sec i with nextFree := (s.sec i).nextFree + n, waste := (s.sec i).waste + n }

/-- R32, R38: the sector is closed with retire-pending set. -/
def closeRetirePending (s : State) (i : Sector) : State :=
  (s.closeSector i).setRetirePending i

/-- R32: the program of an image ended VERIFY-FAIL or DEADLINE; `fillOk` says whether the fill reads back. -/
def imageFailed (s : State) (img : Image) (loc : Location) (fillOk : Bool) : State :=
  let i := loc.sector
  if fillOk then
    let t := (s.clearOp.writeFill loc img.units).killSpan i img.units
    if (t.sec i).suspect then t.closeRetirePending i else t.setSec i { t.sec i with suspect := true }
  else ((s.clearOp.scribbleUnits i loc.unit img.units).killSpan i img.units).closeRetirePending i

/-- R40: the next sector sequence rises at every attempt. -/
def raiseSeq (s : State) : State :=
  s.setNextSeq (s.array.nextSeq + 1)

/-- R40: the activation record's program ended DONE: ACTIVE, the retired set recorded. -/
def activationDone (s : State) (i : Sector) : State :=
  let t := s.clearOp.writeHead i 1 (activationBytes s.array.nextSeq s.array.retiredSet)
  let t := t.setSec i { t.sec i with state := .active, sequence := some s.array.nextSeq, nextFree := 2 }
  (t.setRetired t.array.retiredSet true).raiseSeq

/-- R40: the activation record's program failed: the sector is retired. -/
def activationFailed (s : State) (i : Sector) : State :=
  (s.clearOp.raiseSeq.scribbleUnits i 1 1).retire i .activationFailed

/-- R33: the erase step ended DONE: the count rises, the sector is blank, its erase record is programmed. -/
def eraseStepDone (s : State) (i : Sector) : State :=
  ((s.clearOp.raiseEraseCount i).blankSector i).startOp (.eraseRecord i)

/-- R33: the erase step failed: the count rises, the sector is retired, its units are in an unknown state. -/
def eraseStepFailed (s : State) (i : Sector) (reason : WearReason) : State :=
  ((s.clearOp.raiseEraseCount i).retire i reason).scribbleUnits i 0 Config.sectorUnits

/-- R26, R33, R145, R147: the erase record's program ended DONE: the row is ERASED with the count it carries. -/
def eraseRecordDone (s : State) (i : Sector) : State :=
  let t := s.clearOp.writeHead i 0 (eraseRecordBytes (s.array.epoch.getD 0) (s.sec i).eraseCount)
  t.setSec i (.erasedRow (t.sec i).eraseCount)

/-- R33: the erase record's program failed: the sector is retired. -/
def eraseRecordFailed (s : State) (i : Sector) (reason : WearReason) : State :=
  (s.clearOp.retire i reason).scribbleUnits i 0 1

end State

end Sys2Proof.Machine
end

