-- ==== Sys2Proof/Machine/Triggers.lean ====
section
/-!
DEFINITION. When a reclaim cycle is wanted: the low-water trigger (R116) and the forced flag (R117).
-/

namespace Sys2Proof.Machine

namespace State

/-- FULL sectors that are not in the barred list (R116, R120). -/
def victimCandidates (s : State) : List Sector :=
  (s.sectorsIn .full).filter fun i => !s.reclaim.barred.contains i

/-- Some FULL sector that is not barred has waste or is retire-pending (R116, R118). -/
def somethingToReclaim (s : State) : Bool :=
  s.victimCandidates.any fun i => decide (0 < (s.sec i).waste) || (s.sec i).retirePending

def setReclaimState (s : State) (r : ReclaimState) : State :=
  s.setReclaim { s.reclaim with state := r }

/-- R116: evaluated at the end of a commit job and when the mount unit sets READY or READ-ONLY. -/
def lowWater (s : State) : State :=
  if s.reclaim.state = .idle ∧ s.inService ∧ s.erasedCount ≤ Config.lowWater ∧ s.somethingToReclaim then
    s.setReclaimState .claimMove
  else s

/-- R117: the forced flag is set; an IDLE reclaimer claims at once. -/
def force (s : State) (requested : Bool) : State :=
  let t := s.setReclaim { s.reclaim with forced := true, requested := s.reclaim.requested || requested }
  if t.reclaim.state = .idle ∧ t.inService then t.setReclaimState .claimMove else t

end State

end Sys2Proof.Machine
end

