-- ==== Sys2Proof/Machine/Commit.lean ====
section
/-!
DEFINITION. The commit engine: validation (R91 to R95), the space check (R97, R98), writing (R100 to R106), the ends of a job (R96, R105,
R107, R112) and the checks of a change against the directory that staging shares (R2, R71, R93).
-/

namespace Sys2Proof.Machine

/-! ### Checks of a change against the directory (R2) -/

/-- SERVICE and ONCE records are for SERVICE sessions (R2). -/
def RecClass.needsService : RecClass → Bool
  | .service => true
  | .once => true
  | .plain => false
  | .counter => false

/-- R71, R93: privilege, class, ONCE, in this order. `names` is the class the change names, if it names one. -/
def changeCheck (d : List DirEntry) (privilege : Privilege) (key : Key) (names : Option RecClass) (isAdd : Bool) : Option Result :=
  let live := (Directory.live d key).map Prod.fst
  if privilege = .write ∧ (names.any RecClass.needsService ∨ live = some .service) then some .notPermitted
  else
    match live with
    | none => none
    | some .once => some .onceViolation
    | some cls =>
      if names.any (· != cls) then some .classMismatch
      else if isAdd ∧ cls ≠ .counter then some .classMismatch
      else none

/-- R92: the expected generation. -/
def expectedCheck (d : List DirEntry) (key : Key) (expected : Option Word) : Option Result :=
  match expected with
  | none => none
  | some g =>
    match Directory.live d key with
    | some (_, e) => if g = 0 then some .exists else if e.generation = g then none else some .conflict
    | none => if g = 0 then none else some .conflict

/-- R93, last step: an ADD or a DELETE needs a LIVE entry. -/
def presenceCheck (d : List DirEntry) (key : Key) : Option Result :=
  match Directory.live d key with
  | some _ => none
  | none => some .notFound

/-- R92, R93: the checks of one staged entry at validation. -/
def entryCheck (d : List DirEntry) (privilege : Privilege) (e : StagedEntry) : Option Result :=
  match e.op with
  | .put cls expected _ _ => (expectedCheck d e.key expected).or (changeCheck d privilege e.key (some cls) false)
  | .delete expected =>
    ((expectedCheck d e.key expected).or (changeCheck d privilege e.key none false)).or (presenceCheck d e.key)
  | .add _ => (changeCheck d privilege e.key none true).or (presenceCheck d e.key)

/-- R91: the first entry that fails, with its code and key. -/
def firstFailing (d : List DirEntry) (privilege : Privilege) : List StagedEntry → Option (Result × Key)
  | [] => none
  | e :: es =>
    match entryCheck d privilege e with
    | some r => some (r, e.key)
    | none => firstFailing d privilege es

/-- R94: the keys of PUT entries that have no directory entry at all, in list order. -/
def newKeys (d : List DirEntry) (l : List StagedEntry) : List Key :=
  l.filterMap fun e =>
    match e.op, Directory.find d e.key with
    | .put .., none => some e.key
    | _, _ => none

/-- R94: the first new key that finds no place. -/
def dirFullKey (d : List DirEntry) (l : List StagedEntry) : Option Key :=
  (newKeys d l)[Directory.freePlaces d]?

/-! ### The packing computation (R97, R98) -/

def StagedEntry.units (e : StagedEntry) : Nat :=
  match e.op with
  | .put .counter _ _ _ => 2
  | .put _ _ body _ => recordUnits body.length
  | .add _ => 2
  | .delete _ => 1

/-- The sizes of a transaction's images, MARK last. -/
def transactionSizes (l : List StagedEntry) : List Nat :=
  l.map StagedEntry.units ++ [1]

/-- Fresh sectors that a series of images takes, from `free` units left in the ACTIVE sector. -/
def freshSectors : List Nat → Nat → Nat
  | [], _ => 0
  | n :: ns, free => if n ≤ free then freshSectors ns (free - n) else freshSectors ns (Config.imageUnits - n) + 1

namespace State

/-- R97: the images fit without the last 2 ERASED sectors. -/
def fits (s : State) (sizes : List Nat) : Bool :=
  decide (freshSectors sizes s.activeFree ≤ s.erasedCount - Config.reserve)

/-- R98. -/
def room (s : State) : Nat :=
  s.activeFree + Config.imageUnits * (s.erasedCount - Config.reserve) + s.totalWaste

/-! ### The queue (R88 to R90) -/

def jobOf (s : State) (l : Link) : Option CommitJob :=
  s.commit.queue.find? fun j => j.link == l

def setJob (s : State) (j : CommitJob) : State :=
  s.setQueue (s.commit.queue.map fun x => if x.link = j.link then j else x)

def removeJob (s : State) (l : Link) : State :=
  s.setQueue (s.commit.queue.filter fun j => j.link != l)

def headWaiting (s : State) : Bool :=
  match s.commit.queue with
  | j :: _ => j.state == .waitingSpace
  | [] => false

end State

/-- R88: the job of an accepted COMMIT. Its entry position before WRITING and its failing key before its end are the model's (DESIGN CHOICE,
log 40). -/
def CommitJob.accepted (l : Link) (session : Half) : CommitJob :=
  { link := l, session := session, state := .queued, granted := false, txn := none, position := 1, retries := 0, written := [],
    saturated := false, result := none, failingKey := 0 }

/-- A job in one of these states holds the array (R89). -/
def JobState.holdsArray : JobState → Bool
  | .validating => true
  | .writing => true
  | .queued => false
  | .waitingSpace => false
  | .done => false

/-! ### The end of a job (R96, R105, R107, R110, R112) -/

/-- R108: the fields of a COMMIT reply after its result code. -/
def commitFields (failingKey : Key) (txn : Option Word) (count : Nat) (saturated : Bool) : List Byte :=
  be16 failingKey ++ be32 (txn.getD 0) ++ [BitVec.ofNat 8 count, flagBit0 saturated]

namespace State

/-- R105: written images become dead waste. -/
def wasteWritten (s : State) (l : List Place) : State :=
  l.foldl (fun s p => s.addWaste p.location.sector p.size) s

/-- The row and the held reply of a job that has its result: the reply (R107, R96), or for an orphaned row the notice (R110); in HALTED
the row is ended (R65). -/
def reportJob (s : State) (j : CommitJob) (r : Result) : State :=
  let row := s.row j.link
  if row.orphaned then (s.commitResultNotice j.link j.session r j.txn).endRow j.link
  else
    let reply := commitFields j.failingKey j.txn (if r = .ok then row.staging.length else 0) (r == .ok && j.saturated)
    if s.mount.mode = .halted then (s.placeHeld j.link r reply).endRow j.link
    else
      let t := s.setRow j.link { row with state := .opened, staging := if r = .ok then [] else row.staging }
      (t.restartLease j.link).placeHeld j.link r reply

/-- A job ends with a result: DONE, dead waste where images were written without a MARK, report, the queue left, the reclaimer told, and
its tenancy ended (R90, R96, R105, R107, R112). -/
def endJob (s : State) (j : CommitJob) (r : Result) (failingKey : Key) : State :=
  let j' := { j with state := .done, result := some r, failingKey := failingKey }
  let t := s.setJob j'
  let t := if r = .mediaFault ∨ r = .halted then t.wasteWritten j.written else t
  let t := ((t.reportJob j' r).removeJob j.link).lowWater
  if j.state.holdsArray then t.setTenancy .none else t

/-- R61: KEY-CHANGED on the other link for each key of the transaction it watches, in staging order; none where its session has ended before
(R61; the order that R163 allows beside this: log 43). -/
def keyChanged (s : State) (l : Link) (txn : Word) (keys : List Key) : State :=
  if (s.row l.other).holdsSession then
    (keys.filter fun k => (s.row l.other).watch.contains k).foldl (fun s k => s.offerNotice l.other .keyChanged k txn) s
  else s

/-- R13 to R15: one staged entry applied with the place of its image. -/
def applyEntry (s : State) (txn : Word) (e : StagedEntry × Place) : State :=
  match e.1.op with
  | .put cls _ body _ => s.takeImage e.1.key (.live cls body.length) txn e.2.location
  | .add _ => s.takeImage e.1.key (.live .counter 4) txn e.2.location
  | .delete _ => s.takeImage e.1.key .deleted txn e.2.location

end State

/-- R119: where two consecutive places lie in different sectors the later sector is joined to the earlier. -/
def joinSpans (span : Vector (Option Sector) 48) : List Sector → Vector (Option Sector) 48
  | a :: b :: rest => joinSpans (if a = b then span else span.set b.val (some a) b.isLt) (b :: rest)
  | [_] => span
  | [] => span

namespace State

/-- R107: the MARK is programmed: apply, notices, then the end with OK. -/
def commitDone (s : State) (j : CommitJob) : State :=
  let staging := (s.row j.link).staging
  let txn := j.txn.getD 0
  let t := (staging.zip j.written).foldl (fun s e => s.applyEntry txn e) s
  let t := t.keyChanged j.link txn (staging.map StagedEntry.key)
  let t := t.setReclaim { t.reclaim with span := joinSpans t.reclaim.span (j.written.map fun p => p.location.sector) }
  t.endJob j .ok 0

/-! ### Writing (R100 to R106) -/

/-- R102: the committed value of a counter, read through the read path. -/
def readCounter (s : State) (key : Key) : Option Word :=
  match Directory.live s.directory key with
  | some (_, e) =>
    match readImage s.array.mem e.location.sector e.location.unit with
    | .valid img =>
      match img.recordBody? with
      | some (.counter, [a, b, c, d]) =>
        if img.key? = some key ∧ img.number = e.generation then some (toWord a b c d) else none
      | _ => none
    | _ => none
  | none => none

end State

/-- R4: a signed delta added to an unsigned value, saturated; and whether it saturated. -/
def saturatingAdd (value delta : Word) : Word × Bool :=
  let sum : Int := (value.toNat : Int) + delta.toInt
  if sum < 0 then (0, true) else if 0xFFFFFFFF < sum then (0xFFFFFFFF, true) else (BitVec.ofInt 32 sum, false)

namespace State

/-- R101: the image of a staged entry, and whether an ADD saturated; none where the committed value cannot be read. -/
def entryImage (s : State) (txn : Word) (e : StagedEntry) : Option (Image × Bool) :=
  match e.op with
  | .put cls _ body _ => some (.record cls e.key body txn, false)
  | .delete _ => some (.void e.key txn, false)
  | .add delta =>
    match s.readCounter e.key with
    | some v => some (.record .counter e.key (be32 (saturatingAdd v delta).1) txn, (saturatingAdd v delta).2)
    | none => none

/-- R103: before a placement the rest of the transaction must still fit; then the image is handed to the controller. -/
def commitPlace (s : State) (j : CommitJob) (img : Image) : State :=
  let key := img.key?.getD 0
  let rest := (transactionSizes (s.row j.link).staging).drop (j.position - 1)
  if s.fits rest then
    match (s.setJob j).place img with
    | (t, true) => t
    | (t, false) => t.endJob j .mediaFault key
  else s.endJob j .mediaFault key

/-- R100, R101, R106: the image of the present position is formed and handed over; after the last entry the MARK. -/
def commitWrite (s : State) (j : CommitJob) : State :=
  let staging := (s.row j.link).staging
  let txn := j.txn.getD 0
  match staging[j.position - 1]? with
  | some e =>
    match s.entryImage txn e with
    | some (img, saturated) => s.commitPlace { j with saturated := j.saturated || saturated } img
    | none => s.endJob j .mediaFault e.key
  | none => s.commitPlace j (.mark txn staging.length)

/-- R100: WRITING begins and the transaction number is taken. -/
def beginWriting (s : State) (j : CommitJob) : State :=
  let j' := { j with state := .writing, txn := some s.commit.nextTxn, position := 1, retries := 0, written := [] }
  ((s.setNextTxn (s.commit.nextTxn + 1)).setJob j').commitWrite j'

/-- R99. -/
def waitForSpace (s : State) (j : CommitJob) : State :=
  ((s.setJob { j with state := .waitingSpace }).force false).setTenancy .none

/-- R91: the checks of a granted job in their order. -/
def validate (s : State) (j : CommitJob) : State :=
  let staging := (s.row j.link).staging
  let privilege := (s.row j.link).privilege.getD .read
  if s.mount.mode ≠ .ready then s.endJob j .readOnly 0
  else
    match firstFailing s.directory privilege staging with
    | some (r, key) => s.endJob j r key
    | none =>
      match dirFullKey s.directory staging with
      | some key => s.endJob j .dirFull key
      | none =>
        if s.commit.nextTxn = 0xFFFFFFFF then s.endJob j .readOnly 0
        else if s.fits (transactionSizes staging) then s.beginWriting j
        else if (transactionSizes staging).sum ≤ s.room then s.waitForSpace j
        else s.endJob j .storeFull 0

/-- R90: the head job is granted the array. -/
def grantCommit (s : State) (j : CommitJob) : State :=
  let j' := { j with state := .validating, granted := true }
  ((s.setTenancy .commit).setJob j').validate j'

/-! ### The outcomes of its programs -/

/-- R101, R106, R112: an image of the job is programmed (in a part that owes a RESTART: DESIGN CHOICE, log 46). -/
def commitImageDone (s : State) (j : CommitJob) (img : Image) (loc : Location) : State :=
  let j' := { j with written := j.written ++ [{ location := loc, size := img.units }], retries := 0 }
  match img with
  | .mark _ _ => s.commitDone j'
  | _ =>
    if s.stopped then s.endJob j' .halted 0
    else
      let j'' := { j' with position := j'.position + 1 }
      (s.setJob j'').commitWrite j''

/-- R104, R112: a program of the job failed: up to 2 retries (in a part that owes a RESTART: DESIGN CHOICE, log 46). -/
def commitImageFailed (s : State) (j : CommitJob) (img : Image) : State :=
  let j' := { j with retries := j.retries + 1 }
  if s.stopped then s.endJob j .halted 0
  else if j'.retries ≤ Config.maxRetries then s.commitPlace j' img
  else s.endJob j .mediaFault (img.key?.getD 0)

end State

end Sys2Proof.Machine
end

