-- ==== Sys2Proof/Machine/Reclaim.lean ====
section
/-!
DEFINITION. The reclaimer: the choice of a victim (R120 to R123), the move phase (R124 to R130), the erase phase (R131, R132) and the end
of a cycle (R118).
-/

namespace Sys2Proof.Machine

namespace State

/-! ### The end of a cycle (R118) -/

/-- R99, R118: a waiting job claims again. -/
def requeueWaiting (s : State) : State :=
  s.setQueue (s.commit.queue.map fun j => if j.state = .waitingSpace then { j with state := .queued } else j)

/-- R118: the report to the commit engine, then whether another cycle is wanted. -/
def endCycle (s : State) : State :=
  let t := s.requeueWaiting.setReclaim
    { s.reclaim with victim := none, openTxn := none, tally := [], relocated := [], walkUnit := 2, copyFailures := 0 }
  if t.reclaim.forced then t.setReclaimState .claimMove
  else if t.inService && decide (t.erasedCount < Config.refill) && t.somethingToReclaim then t.setReclaimState .claimMove
  else t.setReclaimState .idle

/-! ### The choice of a victim -/

/-- The sector sequence as a number; a lower one is older (R120). -/
def sequenceOf (s : State) (i : Sector) : Nat :=
  ((s.sec i).sequence.map BitVec.toNat).getD 0

/-- R120, step 2: the lowest erase count, then the lower sequence. -/
def lessErased (s : State) (i b : Sector) : Bool :=
  decide ((s.sec i).eraseCount < (s.sec b).eraseCount) ||
    ((s.sec i).eraseCount == (s.sec b).eraseCount && decide (s.sequenceOf i < s.sequenceOf b))

/-- R120, step 3: the most waste, then the lower sequence. -/
def moreWaste (s : State) (i b : Sector) : Bool :=
  decide ((s.sec b).waste < (s.sec i).waste) ||
    ((s.sec i).waste == (s.sec b).waste && decide (s.sequenceOf i < s.sequenceOf b))

/-- R120: the first of the four steps that gives a sector, of the candidates not set aside. -/
def chooseStep (s : State) (rotationCycle : Bool) (aside : List Sector) : Option Sector :=
  let full := s.victimCandidates.filter fun i => !aside.contains i
  (((full.find? fun i => (s.sec i).retirePending).or
    (if rotationCycle then pick s.lessErased full else none)).or
    (pick s.moreWaste (full.filter fun i => decide (0 < (s.sec i).waste)))).or
    (if s.reclaim.requested then pick s.lessErased full else none)

/-- R121: the chain of predecessors followed to its first sector. -/
def chainRoot (s : State) : Nat → Sector → Sector
  | 0, i => i
  | n + 1, i =>
    match s.reclaim.span[i.val] with
    | some p => chainRoot s n p
    | none => i

/-- R120, R121: a sector whose chain leads to a barred one is set aside and the steps are taken again. -/
def chooseVictim (s : State) (rotationCycle : Bool) : Nat → List Sector → Option Sector
  | 0, _ => none
  | n + 1, aside =>
    match s.chooseStep rotationCycle aside with
    | none => none
    | some i =>
      let r := s.chainRoot 48 i
      if s.reclaim.barred.contains r then s.chooseVictim rotationCycle n (i :: aside) else some r

/-- R123: the live units of the victim find room. -/
def copiesFit (s : State) (v : Sector) : Bool :=
  decide (Config.imageUnits - (s.sec v).waste ≤ s.activeFree + Config.imageUnits * s.erasedCount)

/-- R122: the head waits and the ACTIVE sector has waste. -/
def mayCloseActive (s : State) : Bool :=
  s.headWaiting &&
    (match s.activeSector with
     | some i => decide (0 < (s.sec i).waste)
     | none => false)

/-- R122: no cycle; a waiting job is told when the cycle was forced. -/
def noCycle (s : State) (rotation : Nat) : State :=
  let forced := s.reclaim.forced
  let t := s.setReclaim { s.reclaim with state := .idle, forced := false, requested := false, rotation := rotation }
  let t :=
    match t.commit.queue with
    | j :: _ => if forced && j.state == JobState.waitingSpace then t.endJob j .storeFull 0 else t
    | [] => t
  t.setTenancy .none

/-! ### The move phase -/

/-- The images that the move phase has relocated are counted stale, the marks it set are cleared, and the victim is FULL again (R130). -/
def moveEndsEarly (s : State) (v : Sector) (readFault : Bool) : State :=
  let t := s.setSec v { s.sec v with state := .full, nextFree := Config.sectorUnits }
  let t := (t.reclaim.relocated.foldl (fun t p => t.countStale v p) t).clearDropped v
  let t := if readFault then t.setReclaim { t.reclaim with barred := t.reclaim.barred ++ [v] } else t
  t.endCycle.setTenancy .none

/-- R128: the victim is MOVED, its stale images leave the counts, the erase claim is raised. -/
def victimMoved (s : State) (v : Sector) : State :=
  let tally := closeTally (isPredecessor s.reclaim.span v) s.reclaim.openTxn s.reclaim.tally
  let t := s.setSec v { s.sec v with state := .moved, waste := (s.sec v).nextFree - 2 }
  let t := t.release tally
  (t.setReclaim { t.reclaim with state := .claimErase, openTxn := none, tally := [], relocated := [] }).setTenancy .none

/-- R124: some entry without drop pending lies in the victim at or beyond a unit. -/
def entryBeyond (s : State) (v : Sector) (u : Nat) : Bool :=
  s.directory.any fun e => !e.dropPending && e.location.sector == v && decide (u ≤ e.location.unit)

/-- R124: the walk meets a BLANK or INVALID unit. -/
def walkStops (s : State) (v : Sector) : State :=
  if s.entryBeyond v s.reclaim.walkUnit then s.moveEndsEarly v true else s.victimMoved v

def advanceWalk (s : State) (n : Nat) : State :=
  s.setReclaim { s.reclaim with walkUnit := s.reclaim.walkUnit + n }

/-- R127, as the walk passes an image. -/
def trackWalk (s : State) (loc : Location) (img : Image) : State :=
  let (o, tally) := trackImage s.directory loc img s.reclaim.openTxn s.reclaim.tally
  s.setReclaim { s.reclaim with openTxn := o, tally := tally }

/-- R125: the entry whose current image this is. -/
def currentEntry (s : State) (loc : Location) (img : Image) : Option DirEntry :=
  match img.key? with
  | some key =>
    match Directory.find s.directory key with
    | some e => if e.location = loc then some e else none
    | none => none
  | none => none

/-- R125: the entry carries the image's generation and the image's kind agrees with the entry's state. -/
def imageAgrees (img : Image) (e : DirEntry) : Bool :=
  e.generation == img.number && (img.entryBody?.map EntryBody.isLive) == some e.body.isLive

/-- R126: the void is dropped. -/
def dropsVoid (s : State) (e : DirEntry) : Bool :=
  !e.body.isLive && e.stale == 0 && s.array.recorded

/-- R125, R129: a COPY is handed to the controller; without a sector for it the phase ends early (R130). -/
def placeCopy (s : State) (v : Sector) (copy : Image) : State :=
  match s.place copy with
  | (t, true) => t
  | (t, false) => t.moveEndsEarly v false

/-- R124 to R127: the walk of the victim, until a COPY is to be programmed or the walk ends. -/
def walk (v : Sector) : Nat → State → State
  | 0, s => s.victimMoved v
  | n + 1, s =>
    if Config.sectorUnits ≤ s.reclaim.walkUnit then s.victimMoved v
    else
      let loc : Location := { sector := v, unit := s.reclaim.walkUnit }
      match readImage s.array.mem v s.reclaim.walkUnit with
      | .fill => walk v n (s.advanceWalk 1)
      | .blank => s.walkStops v
      | .invalid => s.walkStops v
      | .valid img =>
        match s.currentEntry loc img with
        | none => walk v n ((s.trackWalk loc img).advanceWalk img.units)
        | some e =>
          if imageAgrees img e then
            if s.dropsVoid e then walk v n (((s.trackWalk loc img).markDrop e.key).advanceWalk img.units)
            else (s.trackWalk loc img).placeCopy v img.copyOf
          else s.moveEndsEarly v true

/-- R123: the victim is taken and the move phase begins. -/
def beginMove (s : State) (v : Sector) (rotation : Nat) : State :=
  let t := s.setSecState v .victim
  let t := t.setReclaim { t.reclaim with
    state := .moving, victim := some v, forced := false, requested := false, rotation := rotation,
    openTxn := none, tally := [], relocated := [], walkUnit := 2, copyFailures := 0 }
  walk v (Config.sectorUnits + 1) t

/-- R120 to R123: the grant of the move claim. -/
def grantMove (s : State) : State :=
  let old := s.reclaim.rotation
  let rotation := if old + 1 = Config.rotation then 0 else old + 1
  let rotationCycle := old + 1 == Config.rotation
  let s := s.setTenancy .move
  let first := s.chooseVictim rotationCycle 49 []
  let s := if first.isNone && s.mayCloseActive then s.closeActive else s
  match first.or (s.chooseVictim rotationCycle 49 []) with
  | some v => if s.copiesFit v then s.beginMove v rotation else s.noCycle old
  | none => s.noCycle old

/-! ### The outcomes of COPY programs -/

/-- R16, R125: a COPY is programmed; the entry is relocated and the walk goes on, unless the part has stopped. -/
def copyDone (s : State) (v : Sector) (copy : Image) (loc : Location) : State :=
  let original : Place := { location := { sector := v, unit := s.reclaim.walkUnit }, size := copy.units }
  let key := copy.key?.getD 0
  let t := s.relocate key loc
  walk v (Config.sectorUnits + 1) ((t.setReclaim { t.reclaim with
    relocated := t.reclaim.relocated ++ [{ key := key, place := original }], copyFailures := 0 }).advanceWalk copy.units)

/-- R129: a third failure sets retire-pending on the sector where it occurred, which closes it if it is still ACTIVE. -/
def thirdFailure (s : State) (i : Sector) : State :=
  if (s.sec i).state = .active then s.closeRetirePending i else s.setRetirePending i

/-- R129: a COPY's program failed in sector `i`. -/
def copyFailed (s : State) (v : Sector) (copy : Image) (i : Sector) : State :=
  let t := s.setReclaim { s.reclaim with copyFailures := s.reclaim.copyFailures + 1 }
  if t.reclaim.copyFailures ≤ Config.maxRetries then t.placeCopy v copy
  else (t.thirdFailure i).moveEndsEarly v false

/-- R134, R153: a move phase that the part's stop ends between two operations: the victim stays VICTIM, nothing is released. -/
def moveStops (s : State) : State :=
  (s.setReclaim { s.reclaim with
    state := .idle, victim := none, forced := false, requested := false,
    openTxn := none, tally := [], relocated := [], walkUnit := 2, copyFailures := 0 }).setTenancy .none

/-- R16, R134: a COPY that was in flight when the part stopped is relocated; no further one is started. -/
def copyDoneStopped (s : State) (copy : Image) (loc : Location) : State :=
  (s.relocate (copy.key?.getD 0) loc).moveStops

/-! ### The erase phase -/

/-- R132: the victim has become ERASED or RETIRED. -/
def endErasePhase (s : State) (v : Sector) : State :=
  let t := s.setReclaim { s.reclaim with span := s.reclaim.span.map fun p => if p = some v then none else p }
  t.endCycle.setTenancy .none

/-- R131: the grant of the erase claim. -/
def grantErase (s : State) (v : Sector) : State :=
  let t := (s.setTenancy .erase).removeDropped v
  let t := t.setReclaimState .erasing
  if (t.sec v).retirePending then (t.retire v .retirePending).endErasePhase v
  else if t.worn v then (t.retire v .worn).endErasePhase v
  else (t.setSecState v .erasing).startOp (.erase v)

end State

end Sys2Proof.Machine
end

