-- ==== Sys2Proof/Machine/Scan.lean ====
section
/-!
DEFINITION. The scan at every start (R139 to R148): heads, replay, repair, decision.
-/

namespace Sys2Proof.Machine

/-! ### HEADS (R139, R140) -/

/-- The classes of R139; STALE-EPOCH is R140's. -/
inductive HeadClass
  | erased | inUse | damaged | blank | staleEpoch
  deriving DecidableEq, Repr

/-- What the mount unit keeps of a sector's head. -/
structure Head where
  cls : HeadClass
  eraseRecord : Option (Word × Nat)
  activation : Option (Word × BitVec 48)
  deriving DecidableEq, Repr

/-- R139. -/
def classify (m : Memory) (i : Sector) : HeadClass :=
  if unitBlank m i 0 then (if blankFrom m i 1 then .blank else .damaged)
  else if (readEraseRecord m i).isSome then
    if unitBlank m i 1 then .erased else if (readActivation m i).isSome then .inUse else .damaged
  else .damaged

def headOf (m : Memory) (i : Sector) : Head :=
  { cls := classify m i, eraseRecord := readEraseRecord m i, activation := readActivation m i }

/-- The heads of all sectors, with their numbers, in ascending number. -/
def headsOf (m : Memory) : List (Sector × Head) :=
  allSectors.map fun i => (i, headOf m i)

/-- L, the largest erase count of any valid erase record (R139). -/
def largestCount (heads : List (Sector × Head)) : Nat :=
  heads.foldl (fun n h => max n ((h.2.eraseRecord.map Prod.snd).getD 0)) 0

/-- The largest epoch of any valid erase record; none where no sector has one (R140). -/
def currentEpoch (heads : List (Sector × Head)) : Option Word :=
  heads.foldl (fun e h =>
    match e, h.2.eraseRecord with
    | none, r => r.map Prod.fst
    | some w, some (w', _) => if w.toNat < w'.toNat then some w' else some w
    | some w, none => some w) none

/-- R140: an ERASED or IN-USE sector of a smaller epoch is STALE-EPOCH. -/
def Head.inEpoch (epoch : Word) (h : Head) : HeadClass :=
  match h.cls with
  | .erased => if h.eraseRecord.map Prod.fst = some epoch then .erased else .staleEpoch
  | .inUse => if h.eraseRecord.map Prod.fst = some epoch then .inUse else .staleEpoch
  | .damaged => .damaged
  | .blank => .blank
  | .staleEpoch => .staleEpoch

/-- The activation records of the IN-USE sectors of the current epoch (R140, R146). -/
def activations (epoch : Word) (heads : List (Sector × Head)) : List (Word × BitVec 48) :=
  heads.filterMap fun h => if h.2.inEpoch epoch = .inUse then h.2.activation else none

/-- The one with the highest sequence. -/
def latestActivation (l : List (Word × BitVec 48)) : Option (Word × BitVec 48) :=
  l.foldl (fun best a =>
    match best with
    | none => some a
    | some b => if b.1.toNat < a.1.toNat then some a else some b) none

/-- R140: the row of a sector before the replay; `largest` is L. -/
def headRow (epoch : Word) (retired : BitVec 48) (largest : Nat) (i : Sector) (h : Head) : SectorRow :=
  let count := (h.eraseRecord.map Prod.snd).getD largest
  if retired.getLsbD i.val then { SectorRow.start with state := .retired, eraseCount := count }
  else
    match h.inEpoch epoch with
    | .erased => .erasedRow count
    | .inUse => { SectorRow.start with state := .full, eraseCount := count, sequence := h.activation.map Prod.fst }
    | .damaged => .start
    | .blank => .start
    | .staleEpoch => .start

/-- R145: what the repair has to take, in ascending number. -/
def repairTasks (epoch : Word) (retired : BitVec 48) (heads : List (Sector × Head)) : List RepairTask :=
  heads.filterMap fun (i, h) =>
    if retired.getLsbD i.val then none
    else
      match h.inEpoch epoch with
      | .damaged => some { sector := i, kind := .damaged }
      | .blank => some { sector := i, kind := .blank }
      | .staleEpoch => some { sector := i, kind := .staleEpoch }
      | .erased => none
      | .inUse => none

namespace State

/-- R139, R140: the part-wide state and the rows from the heads. -/
def takeHeads (s : State) (epoch : Word) (heads : List (Sector × Head)) : State :=
  let largest := largestCount heads
  let latest := latestActivation (activations epoch heads)
  let retired := (latest.map Prod.snd).getD 0
  let rows := s.setTable (Vector.ofFn fun i => headRow epoch retired largest i (headOf s.array.mem i))
  ((rows.setEpoch (some epoch)).setRetired retired latest.isSome).setMount
    { s.mount with
      phase := .replay
      scan := { largest := largest, highestTxn := 0, highestSeq := (latest.map Prod.fst).getD 0,
                todo := repairTasks epoch retired heads } }

end State

/-! ### REPLAY (R141 to R144) -/

/-- The pending transaction (R142): images with their places, in log order. -/
structure PendingTxn where
  number : Word
  images : List (Image × Location)
  deriving DecidableEq, Repr

/-- What the replay carries: the part, the pending transaction, the broken numbers, the highest number seen, and TORN. -/
structure Replay where
  part : State
  pending : Option PendingTxn
  broken : List Word
  highest : Word
  torn : Bool

namespace Replay

/-- Images that are dead are waste of their sectors (R144). -/
def dead (r : Replay) (l : List (Image × Location)) : Replay :=
  { r with part := l.foldl (fun s p => s.addWaste p.2.sector p.1.units) r.part }

/-- The pending images, if any, are dead and none is pending. -/
def drop (r : Replay) : Replay :=
  match r.pending with
  | some p => { r.dead p.images with pending := none }
  | none => r

def see (r : Replay) (n : Word) : Replay :=
  if r.highest.toNat < n.toNat then { r with highest := n } else r

/-- R142: a RECORD or VOID. -/
def commitImage (r : Replay) (img : Image) (loc : Location) : Replay :=
  let g := img.number
  if r.broken.contains g then r.drop.dead [(img, loc)]
  else
    match r.pending with
    | some p =>
      if p.number = g then
        if p.images.length < 16 then { r with pending := some { p with images := p.images ++ [(img, loc)] } }
        else { r.drop.dead [(img, loc)] with broken := g :: r.broken }
      else { r.drop with pending := some { number := g, images := [(img, loc)] } }
    | none => { r with pending := some { number := g, images := [(img, loc)] } }

/-- R142: a MARK; a transaction found whole is offered in log order and its sectors are joined. The MARK of a broken transaction adds no waste
(DESIGN CHOICE, log 41). -/
def mark (r : Replay) (n : Word) (count : Nat) (loc : Location) : Replay :=
  match r.pending with
  | some p =>
    if p.number = n ∧ p.images.length ≤ count then
      let t := p.images.foldl (fun s q => s.offer q.1 q.2) r.part
      let sectors := p.images.map (fun q => q.2.sector) ++ [loc.sector]
      { r with part := t.setReclaim { t.reclaim with span := joinSpans t.reclaim.span sectors }, pending := none }
    else r.drop
  | none => r

/-- R141: a VALID image. -/
def image (r : Replay) (img : Image) (loc : Location) : Replay :=
  match img with
  | .record .. => (r.see img.number).commitImage img loc
  | .void .. => (r.see img.number).commitImage img loc
  | .mark n count => (r.see n).mark n count loc
  | .copyRecord .. => let t := (r.see img.number).drop; { t with part := t.part.offer img loc }
  | .copyVoid .. => let t := (r.see img.number).drop; { t with part := t.part.offer img loc }

/-- The walk of a sector ends with its next free unit at `u`. -/
def leave (r : Replay) (i : Sector) (u : Nat) : Replay :=
  { r with part := r.part.setSec i { r.part.sec i with nextFree := u } }

/-- R143: a torn unit closes its sector. -/
def tear (r : Replay) (i : Sector) (u : Nat) : Replay :=
  { r with part := r.part.setSec i { r.part.sec i with
             nextFree := Config.sectorUnits, waste := (r.part.sec i).waste + (Config.sectorUnits - u) },
           torn := true }

/-- R141: the walk of one sector from unit `u` on. -/
def sector (i : Sector) : Nat → Nat → Replay → Replay
  | 0, _, r => r.leave i Config.sectorUnits
  | n + 1, u, r =>
    if Config.sectorUnits ≤ u then r.leave i Config.sectorUnits
    else
      match readImage r.part.array.mem i u with
      | .valid img => sector i n (u + img.units) (r.image img { sector := i, unit := u })
      | .fill => sector i n (u + 1) { r with part := r.part.addWaste i 1 }
      | .blank => r.leave i u
      | .invalid => r.tear i u

end Replay

/-- Sectors in ascending sequence (R141). -/
def insertBySequence (s : State) (i : Sector) : List Sector → List Sector
  | [] => [i]
  | j :: l => if s.sequenceOf i < s.sequenceOf j then i :: j :: l else j :: insertBySequence s i l

def sortBySequence (s : State) (l : List Sector) : List Sector :=
  l.foldl (fun sorted i => insertBySequence s i sorted) []

/-- R141, R142: the walk of these sectors in log order; images still listed at the end are dead. -/
def replayOf (s : State) (sectors : List Sector) : Replay :=
  ((sortBySequence s sectors).foldl (fun r i => Replay.sector i (Config.sectorUnits + 1) 2 r)
    ({ part := s, pending := none, broken := [], highest := 0, torn := false } : Replay)).drop

namespace State

/-- R143: the tail of a walked sector is dead. -/
def deadTail (s : State) (i : Sector) : State :=
  s.closeSector i

/-- R143: the IN-USE sector of the highest sequence becomes ACTIVE where the units from its next free one on are all blank; otherwise it
is closed as torn. -/
def finishLatest (s : State) (i : Sector) : State × Bool :=
  let b := (s.sec i).nextFree
  if Config.sectorUnits ≤ b then (s, false)
  else if blankFrom s.array.mem i b then (s.setSecState i .active, false)
  else (s.deadTail i, true)

/-- The sectors to be walked: IN-USE, of the current epoch, not RETIRED: FULL for the replay (R140, R141). -/
def replaySectors (s : State) : List Sector :=
  s.sectorsIn .full

/-- R141 to R144, R146. The next transaction number and the next sector sequence are set here, before REPAIR (DESIGN CHOICE, log 47). -/
def scanReplay (s : State) : State :=
  let sectors := s.replaySectors
  let r := replayOf s sectors
  let highestSeq := s.mount.scan.highestSeq
  let latest := sectors.find? fun i => s.sequenceOf i == highestSeq.toNat
  let closed := (sectors.filter fun i => latest != some i).foldl deadTail r.part
  let (t, torn) :=
    match latest with
    | some i => closed.finishLatest i
    | none => (closed, false)
  ((t.setNextTxn (r.highest + 1)).setNextSeq (highestSeq + 1)).setMount
    { t.mount with
      phase := .repair
      flags := { t.mount.flags with torn := r.torn || torn }
      scan := { t.mount.scan with highestTxn := r.highest } }

/-! ### DECIDE (R147, R148) -/

/-- R148: STARTED on both links, the mount unit at rest, the array free, the low-water evaluation. -/
def scanEnds (s : State) (mode : StoreMode) : State :=
  let t := (s.setMode mode).startedNotice
  let t := t.setMount { t.mount with activity := .none, phase := .decide, scan := { t.mount.scan with todo := [] } }
  (t.setTenancy .none).lowWater

/-- R147: READY, or READ-ONLY if fewer than 6 sectors are not RETIRED. -/
def modeByStanding (s : State) : StoreMode :=
  if s.standing < Config.minSectors then .readOnly else .ready

/-! ### REPAIR and initialisation (R145, R147) -/

def setEraseCount (s : State) (i : Sector) (n : Nat) : State :=
  s.setSec i { s.sec i with eraseCount := n }

def setRepairFlags (s : State) (kind : RepairKind) : State :=
  let f := s.mount.flags
  s.setMount { s.mount with flags :=
    match kind with
    | .blank => { f with repaired := true }
    | .damaged => { f with repaired := true }
    | .staleEpoch => { f with epochCleaned := true }
    | .initialise => { f with initialised := true } }

/-- The erase count with which a sector is taken (R145, R147). -/
def repairCount (s : State) (t : RepairTask) : Nat :=
  match t.kind with
  | .blank => if s.mount.scan.largest = 0 then 1 else s.mount.scan.largest
  | .damaged => s.mount.scan.largest
  | .staleEpoch => ((readEraseRecord s.array.mem t.sector).map Prod.snd).getD s.mount.scan.largest
  | .initialise => 1

/-- R145, R147: the tasks in order; one that needs no operation is done at once, and after the last the mode is set. The row takes its erase
count when its sector is taken, so a failed erase record leaves and reports it (DESIGN CHOICE, log 39). -/
def repairNext : List RepairTask → State → State
  | [], s => s.scanEnds s.modeByStanding
  | task :: rest, s =>
    let t := (s.setRepairFlags task.kind).setEraseCount task.sector (s.repairCount task)
    let t := t.setMount { t.mount with scan := { t.mount.scan with todo := rest } }
    match task.kind with
    | .blank => t.startOp (.eraseRecord task.sector)
    | .initialise => t.startOp (.eraseRecord task.sector)
    | .damaged => if t.worn task.sector then repairNext rest (t.retire task.sector .scan) else t.startOp (.erase task.sector)
    | .staleEpoch => if t.worn task.sector then repairNext rest (t.retire task.sector .scan) else t.startOp (.erase task.sector)

/-- The repair goes on with what is still to be taken. -/
def repairGoesOn (s : State) : State :=
  repairNext s.mount.scan.todo s

/-- R147: no valid erase record, every sector BLANK. -/
def initialise (s : State) : State :=
  let t := s.setEpoch (some 1)
  repairNext (allSectors.map fun i => { sector := i, kind := .initialise })
    (t.setMount { t.mount with phase := .decide, flags := { t.mount.flags with initialised := true } })

/-- R147: no valid erase record, some sector not BLANK. -/
def unformatted (s : State) : State :=
  (s.setTable (Vector.replicate 48
    { SectorRow.start with state := .full, nextFree := Config.sectorUnits, waste := Config.imageUnits })).scanEnds .unformatted

/-- The scan, from the heads to the first operation it needs or to its end (R139 to R148). -/
def scan (s : State) : State :=
  let heads := headsOf s.array.mem
  match currentEpoch heads with
  | none => if heads.all fun h => h.2.cls == .blank then s.initialise else s.unformatted
  | some epoch => (s.takeHeads epoch heads).scanReplay.repairGoesOn

/-- R149: a scan that HALTED stops. -/
def scanStops (s : State) : State :=
  (s.setMount { s.mount with activity := .none, scan := { s.mount.scan with todo := [] } }).setTenancy .none

end State

end Sys2Proof.Machine
end

