-- ==== Sys2Proof/Machine/Format.lean ====
section
/-!
DEFINITION. FORMAT from its grant to its end (R155 to R158).
-/

namespace Sys2Proof.Machine

/-- The record of an accepted FORMAT before its grant (R154). -/
def FormatRecord.accepted (mode : StoreMode) (epoch : Option Word) : FormatRecord :=
  { previousMode := mode, previousEpoch := epoch, newEpochWritten := false, stage := .claiming, firstEmpty := false, firstTodo := [],
    secondTodo := [] }

namespace State

def setFormat (s : State) (f : Option FormatRecord) : State :=
  s.setMount { s.mount with format := f }

/-- R135: the reclaimer abandons its cycle; the rotation counter keeps its value. -/
def abandonCycle (s : State) : State :=
  s.setReclaim { Reclaimer.start with rotation := s.reclaim.rotation }

/-- The format is over: the mode set, the held reply, the lease, the mount unit at rest, the low-water evaluation (R156, R157). -/
def formatEnds (s : State) (mode : StoreMode) (r : Result) : State :=
  let t := (((s.setMode mode).placeHeld .s r []).restartLease .s)
  let t := t.setMount { t.mount with activity := .none, format := none }
  (t.setTenancy .none).lowWater

/-- R156: every sector of both groups has been taken. -/
def formatCompletes (s : State) : State :=
  let t := s.setDirectory []
  let t := if (t.row .s).holdsSession then t.setRow .s { t.row .s with staging := [], watch := [] } else t
  let t := ((t.setNextTxn 1).setNextSeq 1).setRetired t.array.retiredSet false
  t.formatEnds t.modeByStanding .ok

/-- R157: the joins of the log entered again; nothing else changes. -/
def rejoin (s : State) : State :=
  let r := replayOf s (allSectors.filter fun i => s.inState .active i || s.inState .full i)
  s.setReclaim { s.reclaim with span := r.part.reclaim.span }

/-- R157: the end of a format that has not emptied the store. -/
def formatFails (s : State) (f : FormatRecord) : State :=
  let t := s.rejoin
  let low := f.previousMode == .ready && decide (t.standing < Config.minSectors)
  let t := if low then t.storeModeNotice .readOnly else t
  t.formatEnds (if low then .readOnly else f.previousMode) (if f.firstEmpty then .busy else .mediaFault)

/-- R157: the first group is exhausted without a new-epoch record; a MOVED victim is taken as its erase phase would take it. -/
def formatUnwinds (s : State) (f : FormatRecord) : State :=
  let f' := { f with stage := .unwinding }
  let t := (s.setEpoch f.previousEpoch).setFormat (some f')
  let t := t.setDirectory (t.directory.filter fun e => !e.dropPending)
  match (t.sectorsIn .moved).head? with
  | some v =>
    if (t.sec v).retirePending then (t.retire v .retirePending).formatFails f'
    else if t.worn v then (t.retire v .worn).formatFails f'
    else t.startOp (.erase v)
  | none => t.formatFails f'

/-- R155: the second group, in ascending number. A worn sector is reported as worn, retire-pending or not (DESIGN CHOICE, log 24). -/
def formatSecond (f : FormatRecord) : List Sector → State → State
  | [], s => s.formatCompletes
  | i :: rest, s =>
    if s.worn i then formatSecond f rest (s.retire i .worn)
    else (s.setFormat (some { f with stage := .second, secondTodo := rest })).startOp (.erase i)

/-- R155: the first group, in ascending number, a worn sector as in the second (log 24); then the second, where a new-epoch record has been written.
-/
def formatFirst (f : FormatRecord) : List Sector → State → State
  | [], s =>
    if f.newEpochWritten then formatSecond { f with firstTodo := [] } f.secondTodo s else s.formatUnwinds { f with firstTodo := [] }
  | i :: rest, s =>
    if s.worn i then formatFirst f rest (s.retire i .worn)
    else (s.setFormat (some { f with stage := .first, firstTodo := rest })).startOp (.erase i)

/-- R155: the grant. -/
def grantFormat (s : State) (f : FormatRecord) : State :=
  let t := s.abandonCycle.setEpoch (some (match f.previousEpoch with | some e => e + 1 | none => 1))
  let t := (t.setMount { t.mount with activity := .format }).setTenancy .format
  let rest := allSectors.filter fun i => !t.inState .retired i
  if f.previousMode = .unformatted then formatSecond { f with stage := .second } rest t
  else
    let first := rest.filter (t.inState .erased)
    let second := rest.filter fun i => !t.inState .erased i
    formatFirst { f with stage := .first, firstEmpty := first.isEmpty, secondTodo := second } first t

/-- A sector of the format has been erased and given its record (`ok`), or retired. -/
def formatGoesOn (s : State) (ok : Bool) : State :=
  match s.mount.format with
  | none => s
  | some f =>
    match f.stage with
    | .claiming => s
    | .unwinding => s.formatFails f
    | .first => formatFirst { f with newEpochWritten := f.newEpochWritten || ok } f.firstTodo s
    | .second => formatSecond { f with newEpochWritten := f.newEpochWritten || ok } f.secondTodo s

/-- R158: a format that HALTED stops. -/
def formatStops (s : State) : State :=
  (s.setMount { s.mount with activity := .none, format := none }).setTenancy .none

end State

end Sys2Proof.Machine
end

