-- ==== Sys2Proof/Machine/Arbiter.lean ====
section
/-!
DEFINITION. The array arbiter (R46 to R48): while the array is free, claims are granted by R47's rule, each grant taken to the operation it
starts or to the end of its phase.
-/

namespace Sys2Proof.Machine

/-- Whose claim is granted. -/
inductive Claim
  | format (f : FormatRecord)
  | move
  | erase (victim : Sector)
  | commit (j : CommitJob)
  deriving DecidableEq, Repr

namespace State

/-- The reclaimer's claim (R46, R115). -/
def reclaimClaim (s : State) : Option Claim :=
  match s.reclaim.state, s.reclaim.victim with
  | .claimMove, _ => some .move
  | .claimErase, some v => some (.erase v)
  | _, _ => none

/-- The head job claims in QUEUED (R90). -/
def commitClaim (s : State) : Option Claim :=
  match s.commit.queue with
  | j :: _ => if j.state = .queued then some (.commit j) else none
  | [] => none

/-- The mount unit's claim for an accepted FORMAT (R46, R154). -/
def formatClaim (s : State) : Option Claim :=
  match s.mount.format with
  | some f => if f.stage = .claiming then some (.format f) else none
  | none => none

/-- R47: the claim that is granted next. -/
def nextClaim (s : State) : Option Claim :=
  let reclaimFirst := decide (s.erasedCount ≤ Config.reserve) || s.headWaiting
  s.formatClaim.or
    (if reclaimFirst then s.reclaimClaim.or s.commitClaim else s.commitClaim.or s.reclaimClaim)

def grant (s : State) : Claim → State
  | .format f => s.grantFormat f
  | .move => s.grantMove
  | .erase v => s.grantErase v
  | .commit j => s.grantCommit j

/-- Grants while the array is free, a claim waits and the part has not stopped; `fuel` bounds phases that need no operation (log 13). -/
def settleFor : Nat → State → State
  | 0, s => s
  | fuel + 1, s =>
    if s.array.tenancy = .none ∧ ¬ s.stopped then
      match s.nextClaim with
      | some c => settleFor fuel (s.grant c)
      | none => s
    else s

def settle (s : State) : State :=
  settleFor 512 s

end State

end Sys2Proof.Machine
end

