-- ==== Sys2Proof/Machine/Completion.lean ====
section
/-!
DEFINITION. The ends of array operations (R30): what the controller does, then what the holder of tenancy does, then the arbiter. The
commands PROGRAM_COMPLETE, ACTIVATION_RECORD_COMPLETE, OPERATION_DEADLINE, ERASE_COMPLETE, ERASE_RECORD_COMPLETE.
-/

namespace Sys2Proof.Machine

namespace State

/-- The job that holds the array. -/
def holderJob (s : State) : Option CommitJob :=
  match s.commit.queue with
  | j :: _ => if j.state.holdsArray then some j else none
  | [] => none

/-- R112, R134, R153: the holder stops before its next operation (a job beside an owed RESTART: DESIGN CHOICE, log 46). -/
def holderStops (s : State) : State :=
  match s.array.tenancy with
  | .commit =>
    match s.holderJob with
    | some j => s.endJob j .halted 0
    | none => s
  | .move => s.moveStops
  | .scan => s.scanStops
  | .format => s.formatStops
  | .erase => s
  | .none => s

/-- The program of an image ended (R31, R32), and its holder proceeds (R101, R104, R125, R129, R112, R134). -/
def imageEnds (s : State) (img : Image) (loc : Location) (outcome : OpOutcome) (fillOk : Bool) : State :=
  match s.array.tenancy with
  | .commit =>
    match s.holderJob with
    | some j =>
      if outcome = .done then (s.imageDone img loc).commitImageDone j img loc
      else (s.imageFailed img loc fillOk).commitImageFailed j img
    | none => s
  | .move =>
    match s.reclaim.victim with
    | some v =>
      if outcome = .done then
        let t := s.imageDone img loc
        if t.stopped then t.copyDoneStopped img loc else t.copyDone v img loc
      else
        let t := s.imageFailed img loc fillOk
        if t.stopped then t.moveStops else t.copyFailed v img loc.sector
    | none => s
  | .scan => s
  | .format => s
  | .erase => s
  | .none => s

/-- R40: no ERASED sector is left to activate; the writer is told (R103, R130). -/
def activationFindsNone (s : State) (img : Image) : State :=
  match s.array.tenancy with
  | .commit =>
    match s.holderJob with
    | some j => s.endJob j .mediaFault (img.key?.getD 0)
    | none => s
  | .move =>
    match s.reclaim.victim with
    | some v => s.moveEndsEarly v false
    | none => s
  | .scan => s
  | .format => s
  | .erase => s
  | .none => s

/-- R40: the program of an activation record ended; the image is placed at unit 2, or another sector is tried. -/
def activationEnds (s : State) (i : Sector) (img : Image) (outcome : OpOutcome) : State :=
  if outcome = .done then
    let t := s.activationDone i
    if t.stopped then t.holderStops else t.startOp (.image img { sector := i, unit := 2 })
  else
    let t := s.activationFailed i
    if t.stopped then t.holderStops
    else
      match t.tryActivate img with
      | (t', true) => t'
      | (t', false) => t'.activationFindsNone img

/-- The erasing block proceeds once a sector is ERASED (`ok`) or retired (R132, R145, R149, R155, R158). -/
def sectorTaken (s : State) (i : Sector) (ok : Bool) : State :=
  match s.array.tenancy with
  | .erase => s.endErasePhase i
  | .scan => if s.stopped then s.scanStops else s.repairGoesOn
  | .format => if s.stopped then s.formatStops else s.formatGoesOn ok
  | .commit => s
  | .move => s
  | .none => s

/-- R45, R145: the reason of a retirement after a failed erase or erase record. -/
def failReason (s : State) (reason : WearReason) : WearReason :=
  if s.array.tenancy = .scan then .scan else reason

/-- R33: the erase step ended. -/
def eraseEnds (s : State) (i : Sector) (outcome : OpOutcome) : State :=
  if outcome = .done then s.eraseStepDone i
  else (s.eraseStepFailed i (s.failReason .eraseFailed)).sectorTaken i false

/-- R33: the erase record's program ended. -/
def eraseRecordEnds (s : State) (i : Sector) (outcome : OpOutcome) : State :=
  if outcome = .done then (s.eraseRecordDone i).sectorTaken i true
  else (s.eraseRecordFailed i (s.failReason .eraseRecordFailed)).sectorTaken i false

/-- The operation in flight ended with an outcome. -/
def opEnds (s : State) (outcome : OpOutcome) (fillOk : Bool) : State :=
  match s.array.op with
  | some (.image img loc) => (s.imageEnds img loc outcome fillOk).settle
  | some (.activation i img) => (s.activationEnds i img outcome).settle
  | some (.erase i) => (s.eraseEnds i outcome).settle
  | some (.eraseRecord i) => (s.eraseRecordEnds i outcome).settle
  | none => s

end State

/-- PROGRAM_COMPLETE (R31, R32): the program of an image ends. -/
def execProgramComplete (outcome : OpOutcome) (fillOk : Bool) (s : State) : Host.Outcome State Fault Refusal :=
  match s.running, s.array.op with
  | true, some (.image img loc) => .next (s.imageEnds img loc outcome fillOk).settle
  | _, _ => .next s

/-- ACTIVATION_RECORD_COMPLETE (R40). -/
def execActivationRecordComplete (outcome : OpOutcome) (s : State) : Host.Outcome State Fault Refusal :=
  match s.running, s.array.op with
  | true, some (.activation i img) => .next (s.activationEnds i img outcome).settle
  | _, _ => .next s

/-- OPERATION_DEADLINE (R30): the operation in flight is stopped with outcome DEADLINE. -/
def execOperationDeadline (fillOk : Bool) (s : State) : Host.Outcome State Fault Refusal :=
  if s.running then .next (s.opEnds .deadline fillOk) else .next s

/-- ERASE_COMPLETE (R33): the erase step ends. -/
def execEraseComplete (outcome : OpOutcome) (s : State) : Host.Outcome State Fault Refusal :=
  match s.running, s.array.op with
  | true, some (.erase i) => .next (s.eraseEnds i outcome).settle
  | _, _ => .next s

/-- ERASE_RECORD_COMPLETE (R33): the erase record's program ends. -/
def execEraseRecordComplete (outcome : OpOutcome) (s : State) : Host.Outcome State Fault Refusal :=
  match s.running, s.array.op with
  | true, some (.eraseRecord i) => .next (s.eraseRecordEnds i outcome).settle
  | _, _ => .next s

end Sys2Proof.Machine
end

