-- ==== Sys2Proof/Machine/Supply.lean ====
section
/-!
DEFINITION. Supply, RESET, PFAIL and the starts (R136, R137, R150, R152, R153).
-/

namespace Sys2Proof.Machine

/-! ### An operation cut off by RESET or by a loss of supply (R136, R149) -/

def State.zeroHead (s : State) (i : Sector) : State :=
  s.writeHead i 0 (List.replicate 16 0)

/-- The operation in flight ends in the middle: its units are in an unknown state, but a cut-off erase leaves a DAMAGED head, a cut-off
erase record a DAMAGED head or a BLANK sector (R149; log 9). -/
def State.cutOff (s : State) : State :=
  match s.array.op with
  | some (.image img loc) => s.clearOp.scribbleUnits loc.sector loc.unit img.units
  | some (.activation i _) => s.clearOp.scribbleUnits i 1 1
  | some (.erase i) =>
    let t := s.clearOp.scribbleUnits i 0 Config.sectorUnits
    if classify t.array.mem i = .damaged then t else t.zeroHead i
  | some (.eraseRecord i) =>
    let t := s.clearOp.scribbleUnits i 0 1
    if classify t.array.mem i = .damaged ∨ classify t.array.mem i = .blank then t else t.zeroHead i
  | none => s

/-- Both notice queues emptied, both ATTN lines inactive (R136, R166). -/
def State.emptyNotices (s : State) : State :=
  (s.setNotices .p []).setNotices .s []

/-! ### Starts -/

/-- A start with this cause: the start values, then the scan, unless PFAIL is asserted (R137). -/
def State.start (s : State) (cause : StartCause) : State :=
  let t := State.started cause s.pins s.array.mem s.pending s.freeCount
  if s.pins.pfailAsserted then t else t.scan.settle

def State.setSupplied (s : State) (b : Bool) : State :=
  s.setPins { s.pins with supplied := b }

def State.setResetPin (s : State) (b : Bool) : State :=
  s.setPins { s.pins with resetAsserted := b }

def State.setPfailPin (s : State) (b : Bool) : State :=
  s.setPins { s.pins with pfailAsserted := b }

/-- What RESET and a loss of supply do at once: the operation in flight is cut off, the notice queues are empty and the ATTN lines released,
nothing is being sent (R136, R166, R184; for a loss of supply log 20). -/
def State.cutShort (s : State) : State :=
  s.cutOff.emptyNotices.holdLines

/-- Supply falls below its range (R136, R184). -/
def supplyFalls (s : State) : State :=
  s.cutShort.setSupplied false

/-- Supply reaches its range; with RESET asserted the start waits for its release (R136; log 19). -/
def supplyReturns (s : State) : State :=
  let t := (supplyFalls s).setSupplied true
  if t.pins.resetAsserted then t else t.start .powerOn

/-- POWER_ON (R136). -/
def execPowerOn (s : State) : Host.Outcome State Fault Refusal :=
  .next (supplyReturns s)

/-- SUPPLY_LOSS (R136). -/
def execSupplyLoss (s : State) : Host.Outcome State Fault Refusal :=
  .next (supplyFalls s)

/-- RESET_ASSERT (R136, R184): the operation in flight is cut off, the notice queues are emptied, the transmit lines held at mark. -/
def execResetAssert (s : State) : Host.Outcome State Fault Refusal :=
  .next (s.cutShort.setResetPin true)

/-- RESET released: a RESET-PIN start (R136). -/
def resetReleases (s : State) : State :=
  if s.pins.resetAsserted then
    let t := s.setResetPin false
    if t.pins.supplied then t.start .resetPin else t
  else s

/-- RESET_RELEASE (R136). -/
def execResetRelease (s : State) : Host.Outcome State Fault Refusal :=
  .next (resetReleases s)

/-! ### PFAIL (R150) -/

/-- R65, R158: a row that is OPEN is ended; a held FORMAT is answered HALTED. -/
def State.haltRow (s : State) (l : Link) : State :=
  let t :=
    match (s.link l).held.map Held.kind with
    | some .format => s.placeHeld l .halted []
    | some .commit => s
    | none => s
  if (t.row l).state = .opened then t.endRow l else t

/-- R112: a job ends, but for one that is programming. -/
def State.haltJob (s : State) (j : CommitJob) : State :=
  if j.state.holdsArray ∧ s.array.op.isSome then s
  else s.endJob j (if j.granted then .halted else .cancelled) 0

def State.haltJobs (s : State) : State :=
  s.commit.queue.foldl haltJob s

/-- R134: claims withdrawn, forced and requested cleared; a phase in progress ends with its operation. -/
def State.haltReclaimer (s : State) : State :=
  let t := s.setReclaim { s.reclaim with forced := false, requested := false }
  match s.reclaim.state with
  | .claimMove => t.setReclaim { t.reclaim with state := .idle, victim := none }
  | .claimErase => t.setReclaim { t.reclaim with state := .idle, victim := none }
  | .idle => t
  | .moving => t
  | .erasing => t

/-- R149, R158: a scan or a format stops at once where no operation is in flight; a FORMAT not yet granted is withdrawn. -/
def State.haltMount (s : State) : State :=
  match s.mount.activity with
  | .scan => if s.array.op.isSome then s else s.scanStops
  | .format => if s.array.op.isSome then s else s.formatStops
  | .none => s.setFormat none

/-- R150: the supply state and the store mode become HALTED, and every block stops its work. -/
def haltAll (s : State) : State :=
  let t := (s.setSupply .halted).setMount { s.mount with mode := .halted, restart := .none }
  ((((t.haltRow .p).haltRow .s).haltJobs).haltReclaimer).haltMount

def pfailAsserts (s : State) : State :=
  let t := s.setPfailPin true
  if t.running ∧ t.supply = .normal then haltAll t else t

/-- PFAIL_ASSERT (R150). -/
def execPfailAssert (s : State) : Host.Outcome State Fault Refusal :=
  .next (pfailAsserts s)

/-- PFAIL_DEASSERT (R152). -/
def execPfailDeassert (s : State) : Host.Outcome State Fault Refusal :=
  .next (s.setPfailPin false)

/-- R152: in HALTED, with PFAIL deasserted and no operation in flight. -/
def supplyReturnDue (s : State) : Bool :=
  s.running && s.supply == .halted && !s.pins.pfailAsserted && s.array.op.isNone

/-- SUPPLY_RETURN_START (R152). -/
def execSupplyReturnStart (s : State) : Host.Outcome State Fault Refusal :=
  .next (if supplyReturnDue s then s.start .supplyReturn else s)

/-- R153: the reply of an accepted RESTART is gone and no operation is in flight. -/
def restartDue (s : State) : Bool :=
  s.running && s.mount.restart == .replyGone && s.array.op.isNone

/-- RESTART_REQUEST_START (R153). -/
def execRestartRequestStart (s : State) : Host.Outcome State Fault Refusal :=
  .next (if restartDue s then s.start .restartRequest else s)

end Sys2Proof.Machine
end

