-- ==== Sys2Proof/Machine/Clock.lean ====
section
/-!
DEFINITION. What a step on an empty queue does: a scan that has not begun begins; otherwise a millisecond of the timebase passes (log 5).
-/

namespace Sys2Proof.Machine

/-- A start has set its values and its scan has not read the array yet: State.reset (R137, log 6). -/
def State.scanPending (s : State) : Bool :=
  s.mount.activity == .scan && s.mount.phase == .heads && s.array.op.isNone

/-- R56, R57: the lease of an OPEN session falls, unless it is suspended. -/
def State.tickLease (s : State) (l : Link) : State :=
  if s.leaseRuns l then
    s.setRow l { s.row l with leaseRemaining := (s.row l).leaseRemaining.map (· - 1) }
  else s

/-- R172, R174: the gap timer runs outside HUNT, the break timer in SPACE. -/
def State.tickLink (s : State) (l : Link) : State :=
  let k := s.link l
  s.setLink l { k with
    gapTimer := if k.framer = .hunt then k.gapTimer else k.gapTimer + 1
    breakTimer := if k.line = .space then k.breakTimer + 1 else k.breakTimer }

/-- R30: the time of the operation in flight. -/
def State.tickOp (s : State) : State :=
  if s.array.op.isSome then s.setArray { s.array with opTimer := s.array.opTimer + 1 } else s

/-- A millisecond, or the beginning of a pending scan. -/
def tick (s : State) : State :=
  if !s.running then s
  else if s.scanPending then s.scan.settle
  else ((((s.tickLease .p).tickLease .s).tickLink .p).tickLink .s).tickOp

end Sys2Proof.Machine
end

