-- ==== Sys2Proof/Machine/Operands.lean ====
section
/-!
DEFINITION. The bodies of request frames (R182): every layout, and what does not fit it.
-/

namespace Sys2Proof.Machine

/-- PUT: key (2), class (1), flags (1), expected generation (4, if flags bit 0), body (0 to 224). -/
def parsePut : List Byte → Option Request
  | k1 :: k0 :: cls :: flags :: rest =>
    if flagsReserved flags then none
    else if flagsExpected flags then
      match rest with
      | g3 :: g2 :: g1 :: g0 :: body =>
        if body.length ≤ Config.maxPart then some (.put (toHalf k1 k0) cls (some (toWord g3 g2 g1 g0)) body) else none
      | _ => none
    else if rest.length ≤ Config.maxPart then some (.put (toHalf k1 k0) cls none rest)
    else none
  | _ => none

/-- DELETE: key (2), flags (1), expected generation (4, if flags bit 0). -/
def parseDelete : List Byte → Option Request
  | [k1, k0, flags] =>
    if flagsReserved flags || flagsExpected flags then none else some (.delete (toHalf k1 k0) none)
  | [k1, k0, flags, g3, g2, g1, g0] =>
    if flagsReserved flags || !flagsExpected flags then none else some (.delete (toHalf k1 k0) (some (toWord g3 g2 g1 g0)))
  | _ => none

/-- APPEND: key (2), bytes (0 to 224). -/
def parseAppend : List Byte → Option Request
  | k1 :: k0 :: bytes => if bytes.length ≤ Config.maxPart then some (.append (toHalf k1 k0) bytes) else none
  | _ => none

/-- The kinds that carry no field. -/
def parseNone (r : Request) : List Byte → Option Request
  | [] => some r
  | _ => none

/-- The kinds that carry a key alone. -/
def parseKey (r : Key → Request) : List Byte → Option Request
  | [k1, k0] => some (r (toHalf k1 k0))
  | _ => none

def parseAck : List Byte → Option Request
  | [n] => some (.ack n)
  | _ => none

def parseOpen : List Byte → Option Request
  | [privilege, lease] => some (.openSession privilege lease)
  | _ => none

def parseRenew : List Byte → Option Request
  | [privilege, lease] => some (.renew privilege lease)
  | _ => none

/-- READ: key (2), offset (2), maximum length (1). -/
def parseRead : List Byte → Option Request
  | [k1, k0, o1, o0, maximum] => some (.read (toHalf k1 k0) (toHalf o1 o0) maximum)
  | _ => none

/-- LIST: starting key (2), count (1). -/
def parseList : List Byte → Option Request
  | [k1, k0, count] => some (.list (toHalf k1 k0) count)
  | _ => none

/-- ADD: key (2), delta, signed (4). -/
def parseAdd : List Byte → Option Request
  | [k1, k0, d3, d2, d1, d0] => some (.add (toHalf k1 k0) (toWord d3 d2 d1 d0))
  | _ => none

/-- R182: the request that a body spells for its kind, none where the body does not fit the layout. -/
def parseBody : ReqKind → List Byte → Option Request
  | .status => parseNone .status
  | .notices => parseNone .notices
  | .ack => parseAck
  | .openSession => parseOpen
  | .renew => parseRenew
  | .close => parseNone .close
  | .read => parseRead
  | .list => parseList
  | .put => parsePut
  | .append => parseAppend
  | .add => parseAdd
  | .delete => parseDelete
  | .drop => parseKey .drop
  | .staged => parseNone .staged
  | .abort => parseNone .abort
  | .commit => parseNone .commit
  | .watch => parseKey .watch
  | .unwatch => parseKey .unwatch
  | .reclaim => parseNone .reclaim
  | .format => parseNone .format
  | .restart => parseNone .restart

/-- The flags byte and optional field of an expected generation (R182). -/
def expectedBytes : Option Word → List Byte
  | none => [0]
  | some g => 1 :: be32 g

/-- The body that carries a request (R182), written from the same table as `parseBody`. -/
def bodyOf : Request → List Byte
  | .ack n => [n]
  | .openSession privilege lease => [privilege, lease]
  | .renew privilege lease => [privilege, lease]
  | .read key offset maximum => be16 key ++ be16 offset ++ [maximum]
  | .list start count => be16 start ++ [count]
  | .put key cls expected body => be16 key ++ [cls] ++ expectedBytes expected ++ body
  | .append key bytes => be16 key ++ bytes
  | .add key delta => be16 key ++ be32 delta
  | .delete key expected => be16 key ++ expectedBytes expected
  | .drop key => be16 key
  | .watch key => be16 key
  | .unwatch key => be16 key
  | .status => []
  | .notices => []
  | .close => []
  | .staged => []
  | .abort => []
  | .commit => []
  | .reclaim => []
  | .format => []
  | .restart => []

/-- R182: a request whose body fits its layout; only PUT and APPEND can be too long. -/
def requestFits : Request → Bool
  | .put _ _ _ body => decide (body.length ≤ Config.maxPart)
  | .append _ bytes => decide (bytes.length ≤ Config.maxPart)
  | _ => true

end Sys2Proof.Machine
end

