-- ==== Sys2Proof/Machine/Reading.lean ====
section
/-!
DEFINITION. READ (R20 to R22) and LIST (R23), as the directory answers them once the link has passed them on.
-/

namespace Sys2Proof.Machine

/-- R183: flags, generation, body length, body bytes. -/
def readFields (staged : Bool) (generation : Word) (length : Nat) (bytes : List Byte) : List Byte :=
  flagBit0 staged :: be32 generation ++ be16 (BitVec.ofNat 16 length) ++ bytes

/-- R21: the body of the image at a LIVE entry's location, none where its check, key or generation is not the entry's. -/
def State.readBody (s : State) (e : DirEntry) : Option (List Byte) :=
  match readImage s.array.mem e.location.sector e.location.unit with
  | .valid img =>
    match img.recordBody? with
    | some (_, body) => if img.key? = some e.key ∧ img.number = e.generation then some body else none
    | none => none
  | .blank => none
  | .fill => none
  | .invalid => none

/-- R21: the bytes from the offset onward, at most `maximum`. -/
def readSlice (body : List Byte) (offset : Half) (maximum : Byte) : List Byte :=
  (body.drop offset.toNat).take maximum.toNat

/-- A READ refused with no body bytes; `staged` sets the STAGED flag (R183). -/
def State.refuseRead (s : State) (l : Link) (sq : Byte) (staged : Bool) (r : Result) : State :=
  s.answer l sq .read r (readFields staged 0 0 [])

/-- R20, last check, and R21: OK with the bytes, or BAD-VALUE for an offset beyond the length. -/
def State.answerRead (s : State) (l : Link) (sq : Byte) (staged : Bool) (generation : Word) (length : Nat) (offset : Half)
    (maximum : Byte) (body : Option (List Byte)) : State :=
  if length < offset.toNat then s.refuseRead l sq false .badValue
  else
    match body with
    | some bs => s.answer l sq .read .ok (readFields staged generation length (readSlice bs offset maximum))
    | none => s.refuseRead l sq staged .mediaFault

/-- R21: the committed view. -/
def State.readCommitted (s : State) (l : Link) (sq : Byte) (key : Key) (offset : Half) (maximum : Byte) : State :=
  match Directory.find s.directory key with
  | some e =>
    match e.body with
    | .live _ n => s.answerRead l sq false e.generation n offset maximum (s.readBody e)
    | .deleted => s.refuseRead l sq false .notFound
  | none => s.refuseRead l sq false .notFound

/-- R22: the staged view. -/
def State.readStaged (s : State) (l : Link) (sq : Byte) (e : StagedEntry) (offset : Half) (maximum : Byte) : State :=
  let live := Directory.live s.directory e.key
  match e.op with
  | .put _ _ body _ =>
    s.answerRead l sq true ((live.map fun p => p.2.generation).getD 0) body.length offset maximum (some body)
  | .delete _ => s.refuseRead l sq true .notFound
  | .add delta =>
    match live with
    | some (.counter, d) =>
      s.answerRead l sq true d.generation 4 offset maximum ((s.readCounter e.key).map fun v => be32 (saturatingAdd v delta).1)
    | some _ => s.refuseRead l sq true .classMismatch
    | none => s.refuseRead l sq true .notFound

/-- R85: the staged entry of the key, where the link's session is OPEN. -/
def State.stagedView (s : State) (l : Link) (key : Key) : Option StagedEntry :=
  if (s.row l).state = .opened then findStaged (s.row l).staging key else none

/-- The store mode check of READ, LIST, OPEN, RENEW, CLOSE, WATCH and UNWATCH (R20, R23, R52, R53, R55, R59). -/
def modeRefusal : StoreMode → Option Result
  | .mounting => some .notReady
  | .formatting => some .notReady
  | .halted => some .halted
  | .ready => none
  | .readOnly => none
  | .unformatted => none

/-- READ (R20): the checks in their order. -/
def requestRead (l : Link) (sq : Byte) (key offset : Half) (maximum : Byte) (s : State) : State :=
  match modeRefusal s.mount.mode with
  | some r => s.refuse l sq .read r
  | none =>
    if !keyInRange key then s.refuse l sq .read .badKey
    else if maximum = 0 ∨ 224 < maximum.toNat then s.refuse l sq .read .badValue
    else
      match s.stagedView l key with
      | some e => s.readStaged l sq e offset maximum
      | none => s.readCommitted l sq key offset maximum

/-- R183: key, class, body length, generation of a LIVE entry. -/
def listItem (e : DirEntry) : List Byte :=
  match e.body with
  | .live cls n => be16 e.key ++ [cls.code] ++ be16 (BitVec.ofNat 16 n) ++ be32 e.generation
  | .deleted => []

/-- The LIVE entries from a key on, in ascending key order (R23). -/
def liveFrom (d : List DirEntry) (start : Key) : List DirEntry :=
  d.filter fun e => e.body.isLive && decide (start.toNat ≤ e.key.toNat)

/-- LIST (R23). -/
def requestList (l : Link) (sq : Byte) (start : Key) (count : Byte) (s : State) : State :=
  match modeRefusal s.mount.mode with
  | some r => s.refuse l sq .list r
  | none =>
    if !keyInRange start then s.refuse l sq .list .badKey
    else if count = 0 ∨ 16 < count.toNat then s.refuse l sq .list .badValue
    else
      let all := liveFrom s.directory start
      let items := all.take count.toNat
      let next := ((all.drop count.toNat).head?.map DirEntry.key).getD 0
      s.answer l sq .list .ok (BitVec.ofNat 8 items.length :: be16 next ++ items.flatMap listItem)

end Sys2Proof.Machine
end

