-- ==== Sys2Proof/Machine/SessionRequests.lean ====
section
/-!
DEFINITION. The requests that the session table answers: OPEN, RENEW, CLOSE, WATCH, UNWATCH (R52 to R60).
-/

namespace Sys2Proof.Machine

/-- R52, R53: 1 to 120 s. -/
def leaseInRange (lease : Byte) : Bool :=
  lease != 0 && decide (lease.toNat ≤ 120)

/-- R51: SERVICE is for Link S. -/
def privilegeAllowed (l : Link) (p : Privilege) : Bool :=
  match l, p with
  | .p, .service => false
  | _, _ => true

/-- A session's lease at its full period (R52, R53). -/
def SessionRow.withLease (r : SessionRow) (p : Privilege) (lease : Byte) : SessionRow :=
  { r with privilege := some p, leasePeriod := some lease.toNat, leaseRemaining := some (lease.toNat * 1000) }

/-- R52: the row of a session just opened. -/
def SessionRow.fresh (number : Half) (p : Privilege) (lease : Byte) : SessionRow :=
  ({ SessionRow.none with state := .opened, number := some number }).withLease p lease

/-- OPEN (R52). -/
def requestOpen (l : Link) (sq privilege lease : Byte) (s : State) : State :=
  match modeRefusal s.mount.mode with
  | some r => s.refuse l sq .openSession r
  | none =>
    if (s.row l).holdsSession then s.refuse l sq .openSession .sessionOpen
    else if (s.row l).orphaned then s.refuse l sq .openSession .busy
    else
      match Privilege.ofCode privilege with
      | none => s.refuse l sq .openSession .badValue
      | some p =>
        if !leaseInRange lease then s.refuse l sq .openSession .badValue
        else if !privilegeAllowed l p then s.refuse l sq .openSession .notPermitted
        else
          let n := s.newSession l
          ((s.setSessionCounter (nextSession n)).setRow l (.fresh n p lease)).answer l sq .openSession .ok
            (be16 n ++ [p.code, lease])

/-- RENEW (R53), with the demotion discard (R54). -/
def requestRenew (l : Link) (sq privilege lease : Byte) (s : State) : State :=
  match modeRefusal s.mount.mode with
  | some r => s.refuse l sq .renew r
  | none =>
    let row := s.row l
    if !row.holdsSession then s.refuse l sq .renew .noSession
    else
      match Privilege.ofCode privilege with
      | none => s.refuse l sq .renew .badValue
      | some p =>
        if !leaseInRange lease then s.refuse l sq .renew .badValue
        else if !privilegeAllowed l p then s.refuse l sq .renew .notPermitted
        else
          let lowered := decide (p.rank < (row.privilege.map Privilege.rank).getD 0)
          let discarded := if lowered then row.staging.length else 0
          let kept := if lowered then [] else row.staging
          (s.setRow l ({ row with staging := kept }.withLease p lease)).answer l sq .renew .ok
            (be16 (row.number.getD 0) ++ [p.code, lease, BitVec.ofNat 8 discarded])

/-- CLOSE (R55). -/
def requestClose (l : Link) (sq : Byte) (s : State) : State :=
  match modeRefusal s.mount.mode with
  | some r => s.refuse l sq .close r
  | none =>
    let row := s.row l
    if !row.holdsSession then s.refuse l sq .close .noSession
    else (s.endRow l).answer l sq .close .ok (be16 (row.number.getD 0) ++ [BitVec.ofNat 8 row.staging.length])

/-- WATCH (R59). -/
def requestWatch (l : Link) (sq : Byte) (key : Key) (s : State) : State :=
  match modeRefusal s.mount.mode with
  | some r => s.refuse l sq .watch r
  | none =>
    let row := s.row l
    if !row.holdsSession then s.refuse l sq .watch .noSession
    else if !keyInRange key then s.refuse l sq .watch .badKey
    else if row.watch.contains key then s.answer l sq .watch .ok [BitVec.ofNat 8 row.watch.length]
    else if Config.maxWatch ≤ row.watch.length then s.answer l sq .watch .watchFull [BitVec.ofNat 8 row.watch.length]
    else (s.setRow l { row with watch := row.watch ++ [key] }).answer l sq .watch .ok [BitVec.ofNat 8 (row.watch.length + 1)]

/-- UNWATCH (R60). -/
def requestUnwatch (l : Link) (sq : Byte) (key : Key) (s : State) : State :=
  match modeRefusal s.mount.mode with
  | some r => s.refuse l sq .unwatch r
  | none =>
    let row := s.row l
    if !row.holdsSession then s.refuse l sq .unwatch .noSession
    else if !keyInRange key then s.refuse l sq .unwatch .badKey
    else if row.watch.contains key then
      let watch := row.watch.filter (· != key)
      (s.setRow l { row with watch := watch }).answer l sq .unwatch .ok [BitVec.ofNat 8 watch.length]
    else s.refuse l sq .unwatch .notFound

end Sys2Proof.Machine
end

