-- ==== Sys2Proof/Machine/StagingRequests.lean ====
section
/-!
DEFINITION. The staging requests PUT, APPEND, ADD, DELETE, DROP, STAGED and ABORT (R70 to R83).
-/

namespace Sys2Proof.Machine

/-- R70, check 1: staging requests are answered in READY only. -/
def stagingModeRefusal : StoreMode → Option Result
  | .mounting => some .notReady
  | .formatting => some .notReady
  | .unformatted => some .notReady
  | .halted => some .halted
  | .readOnly => some .readOnly
  | .ready => none

/-- R70: the common checks in their order; STAGED and ABORT carry no key. -/
def stagingRefusal (s : State) (l : Link) (key : Option Key) : Option Result :=
  match stagingModeRefusal s.mount.mode with
  | some r => some r
  | none =>
    let row := s.row l
    if !row.holdsSession then some .noSession
    else if row.privilege = some .read then some .notPermitted
    else if row.state = .committing then some .busy
    else if key.any fun k => !keyInRange k then some .badKey
    else none

/-- R66, R183: flags, free slots, free bytes, entries of the session's list, after the request. -/
def poolFields (s : State) (l : Link) (saturated : Bool) : List Byte :=
  [flagBit0 saturated, BitVec.ofNat 8 s.poolFreeSlots] ++ be16 (BitVec.ofNat 16 s.poolFreeBytes) ++
    [BitVec.ofNat 8 (s.row l).staging.length]

/-- OK with the counts of R66. -/
def State.answerPool (s : State) (l : Link) (sq : Byte) (kind : ReqKind) (saturated : Bool) : State :=
  s.answer l sq kind .ok (poolFields s l saturated)

/-- R72: `isNew` says that an entry is to be created, `freed` the bytes of the entry it replaces. -/
def roomRefused (s : State) (l : Link) (isNew : Bool) (need freed : Nat) : Bool :=
  (isNew && (decide (Config.maxStaged ≤ (s.row l).staging.length) || s.poolFreeSlots == 0)) ||
    decide (s.poolFreeBytes + freed < need)

/-- The session's privilege at a staging check (R71). -/
def State.privilegeOf (s : State) (l : Link) : Privilege :=
  (s.row l).privilege.getD .read

/-- An entry takes its place in the list (R69), and the reply is OK with the counts. -/
def State.stageEntry (s : State) (l : Link) (sq : Byte) (kind : ReqKind) (e : StagedEntry) (saturated : Bool) : State :=
  (s.setStaging l (stage (s.row l).staging e)).answerPool l sq kind saturated

/-- PUT (R74, R75). -/
def requestPut (l : Link) (sq : Byte) (key : Key) (cls : Byte) (expected : Option Word) (body : List Byte) (s : State) : State :=
  match stagingRefusal s l (some key) with
  | some r => s.refuse l sq .put r
  | none =>
    match RecClass.ofCode cls with
    | none => s.refuse l sq .put .badValue
    | some c =>
      if c = .counter ∧ body.length ≠ 4 then s.refuse l sq .put .badValue
      else
        match changeCheck s.directory (s.privilegeOf l) key (some c) false with
        | some r => s.refuse l sq .put r
        | none =>
          let old := findStaged (s.row l).staging key
          if roomRefused s l old.isNone body.length ((old.map StagedEntry.bytes).getD 0) then s.refuse l sq .put .noRoom
          else s.stageEntry l sq .put { key := key, op := .put c expected body 0 } false

/-- R77: the clipped count stops at 65,535. -/
def raiseClipped (clipped dropped : Nat) : Nat :=
  min 65535 (clipped + dropped)

/-- R183: bytes accepted, write pointer. -/
def appendFields (accepted pointer : Nat) : List Byte :=
  BitVec.ofNat 8 accepted :: be16 (BitVec.ofNat 16 pointer)

/-- APPEND (R76, R77). -/
def requestAppend (l : Link) (sq : Byte) (key : Key) (bytes : List Byte) (s : State) : State :=
  match stagingRefusal s l (some key) with
  | some r => s.refuse l sq .append r
  | none =>
    match (findStaged (s.row l).staging key).map StagedEntry.op with
    | some (.put c expected body clipped) =>
      if c = .counter then s.refuse l sq .append .classMismatch
      else
        match changeCheck s.directory (s.privilegeOf l) key (some c) false with
        | some r => s.refuse l sq .append r
        | none =>
          let accepted := min bytes.length (Config.maxBody - body.length)
          if roomRefused s l false accepted 0 then s.answer l sq .append .noRoom (appendFields 0 body.length)
          else
            let dropped := bytes.length - accepted
            let op : StagedOp := .put c expected (body ++ bytes.take accepted) (raiseClipped clipped dropped)
            (s.setStaging l (stage (s.row l).staging { key := key, op := op })).answer l sq .append
              (if dropped = 0 then .ok else .clipped) (appendFields accepted (body.length + accepted))
    | some (.delete _) => s.refuse l sq .append .notFound
    | some (.add _) => s.refuse l sq .append .notFound
    | none => s.refuse l sq .append .notFound

/-- A signed sum of two deltas within −2,147,483,648 to +2,147,483,647 (R78). -/
def sumDeltas (a b : Word) : Option Word :=
  let sum := a.toInt + b.toInt
  if -2147483648 ≤ sum ∧ sum ≤ 2147483647 then some (BitVec.ofInt 32 sum) else none

/-- R78: an ADD of a key that the list does not hold. -/
def addNew (l : Link) (sq : Byte) (key : Key) (delta : Word) (s : State) : State :=
  match changeCheck s.directory (s.privilegeOf l) key none true with
  | some r => s.refuse l sq .add r
  | none =>
    if roomRefused s l true 0 0 then s.refuse l sq .add .noRoom
    else s.stageEntry l sq .add { key := key, op := .add delta } false

/-- R78: an ADD onto a staged ADD. -/
def addToAdd (l : Link) (sq : Byte) (key : Key) (old delta : Word) (s : State) : State :=
  match changeCheck s.directory (s.privilegeOf l) key none true with
  | some r => s.refuse l sq .add r
  | none =>
    match sumDeltas old delta with
    | none => s.refuse l sq .add .badValue
    | some sum => s.stageEntry l sq .add { key := key, op := .add sum } false

/-- R79: an ADD onto a staged COUNTER PUT. -/
def addToPut (l : Link) (sq : Byte) (key : Key) (expected : Option Word) (body : List Byte) (delta : Word) (s : State) : State :=
  match changeCheck s.directory (s.privilegeOf l) key (some .counter) false with
  | some r => s.refuse l sq .add r
  | none =>
    let v := saturatingAdd (BitVec.ofNat 32 (bytesToNat body)) delta
    s.stageEntry l sq .add { key := key, op := .put .counter expected (be32 v.1) 0 } v.2

/-- ADD (R78, R79). -/
def requestAdd (l : Link) (sq : Byte) (key : Key) (delta : Word) (s : State) : State :=
  match stagingRefusal s l (some key) with
  | some r => s.refuse l sq .add r
  | none =>
    match (findStaged (s.row l).staging key).map StagedEntry.op with
    | none => addNew l sq key delta s
    | some (.add old) => addToAdd l sq key old delta s
    | some (.put c expected body _) =>
      if c = .counter then addToPut l sq key expected body delta s else s.refuse l sq .add .classMismatch
    | some (.delete _) => s.refuse l sq .add .notFound

/-- DELETE (R80). -/
def requestDelete (l : Link) (sq : Byte) (key : Key) (expected : Option Word) (s : State) : State :=
  match stagingRefusal s l (some key) with
  | some r => s.refuse l sq .delete r
  | none =>
    match changeCheck s.directory (s.privilegeOf l) key none false with
    | some r => s.refuse l sq .delete r
    | none =>
      if roomRefused s l (findStaged (s.row l).staging key).isNone 0 0 then s.refuse l sq .delete .noRoom
      else s.stageEntry l sq .delete { key := key, op := .delete expected } false

/-- DROP (R81). -/
def requestDrop (l : Link) (sq : Byte) (key : Key) (s : State) : State :=
  match stagingRefusal s l (some key) with
  | some r => s.refuse l sq .drop r
  | none =>
    match findStaged (s.row l).staging key with
    | some _ => (s.setStaging l (unstage (s.row l).staging key)).answerPool l sq .drop false
    | none => s.refuse l sq .drop .notFound

/-- R82, R183: key, operation, class, length, clipped count, expected generation present. The clipped count of a DELETE or an ADD is sent as
0000H (DEDUCED, log 44). -/
def stagedItem (e : StagedEntry) : List Byte :=
  match e.op with
  | .put c expected body clipped =>
    be16 e.key ++ [e.op.code, c.code] ++ be16 (BitVec.ofNat 16 body.length) ++ be16 (BitVec.ofNat 16 clipped) ++
      [flagBit0 expected.isSome]
  | .delete expected => be16 e.key ++ [e.op.code, 0, 0, 0, 0, 0, flagBit0 expected.isSome]
  | .add _ => be16 e.key ++ [e.op.code, 0, 0, 0, 0, 0, 0]

/-- STAGED (R82). -/
def requestStaged (l : Link) (sq : Byte) (s : State) : State :=
  match stagingRefusal s l none with
  | some r => s.refuse l sq .staged r
  | none =>
    s.answer l sq .staged .ok (BitVec.ofNat 8 (s.row l).staging.length :: (s.row l).staging.flatMap stagedItem)

/-- ABORT (R83). -/
def requestAbort (l : Link) (sq : Byte) (s : State) : State :=
  match stagingRefusal s l none with
  | some r => s.refuse l sq .abort r
  | none => (s.setStaging l []).answer l sq .abort .ok [BitVec.ofNat 8 (s.row l).staging.length]

end Sys2Proof.Machine
end

