-- ==== Sys2Proof/Machine/PartRequests.lean ====
section
/-!
DEFINITION. The requests about the part and its notices: STATUS (R180), NOTICES (R164), ACK (R165), COMMIT (R87), RECLAIM (R133), FORMAT
(R154), RESTART (R153).
-/

namespace Sys2Proof.Machine

/-! ### STATUS -/

/-- R49: seconds, rounded up. -/
def wholeSeconds (ms : Nat) : Nat :=
  (ms + 999) / 1000

/-- Offsets 7 to 11 (10.4.1): session state, number, privilege, lease remaining; an orphaned row is reported as no session (R49). -/
def sessionFields (r : SessionRow) : List Byte :=
  if r.holdsSession then
    r.state.code :: be16 (r.number.getD 0) ++
      [(r.privilege.map Privilege.code).getD 0, BitVec.ofNat 8 (wholeSeconds (r.leaseRemaining.getD 0))]
  else [0, 0, 0, 0, 0]

/-- Offset 12. -/
def heldCode (h : Option Held) : Byte :=
  match h with
  | some h => h.kind.code
  | none => 0

/-- Offsets 1 to 38 of the STATUS reply (R180, 10.4.1). -/
def statusFields (s : State) (l : Link) : List Byte :=
  be16 0x4F40 ++ [0x01, s.mount.mode.code, s.mount.cause.code, s.mount.flags.byte] ++
    sessionFields (s.row l) ++ [heldCode (s.link l).held] ++
    be16 (BitVec.ofNat 16 (Directory.liveCount s.directory)) ++ be16 (BitVec.ofNat 16 (Directory.deletedCount s.directory)) ++
    [BitVec.ofNat 8 s.erasedCount, BitVec.ofNat 8 (s.countState .full), BitVec.ofNat 8 (s.countState .retired),
      BitVec.ofNat 8 s.activeFree] ++
    be16 (BitVec.ofNat 16 s.totalWaste) ++ be32 s.commit.nextTxn ++
    [s.array.tenancy.code, BitVec.ofNat 8 s.poolFreeSlots] ++ be16 (BitVec.ofNat 16 s.poolFreeBytes) ++
    [BitVec.ofNat 8 s.commit.queue.length] ++
    be16 (s.link l).checkCount ++ be16 (s.link l).gapCount ++ be16 (s.link l).overrunCount ++
    [BitVec.ofNat 8 (s.noticeQueue l).entries.length]

/-- STATUS (R180). -/
def requestStatus (l : Link) (sq : Byte) (s : State) : State :=
  s.answer l sq .status .ok (statusFields s l)

/-! ### Notices -/

/-- R183: kind, subject, detail, repeat count. -/
def noticeItem (n : Notice) : List Byte :=
  n.kind.code :: be16 n.subject ++ be32 n.detail ++ [BitVec.ofNat 8 n.repeats]

/-- R164, R165, R175: NOTICES and ACK are not executed in HALTED, nor in FORMATTING on Link S without a held request. -/
def noticesRefusal (s : State) (l : Link) : Option Result :=
  if s.mount.mode = .halted then some .halted
  else if s.mount.mode = .formatting ∧ l = .s ∧ (s.link l).held = none then some .notReady
  else none

/-- NOTICES (R164): every entry is carried and marked seen; nothing is removed. -/
def requestNotices (l : Link) (sq : Byte) (s : State) : State :=
  match noticesRefusal s l with
  | some r => s.refuse l sq .notices r
  | none =>
    let q := (s.noticeQueue l).entries
    (s.setNotices l (q.map fun n => { n with seen := true })).answer l sq .notices .ok
      (BitVec.ofNat 8 q.length :: q.flatMap noticeItem)

/-- ACK (R165): removed, removed unseen, left. -/
def requestAck (l : Link) (sq n : Byte) (s : State) : State :=
  match noticesRefusal s l with
  | some r => s.refuse l sq .ack r
  | none =>
    let q := (s.noticeQueue l).entries
    if q.length < n.toNat then s.answer l sq .ack .badValue [0, 0, BitVec.ofNat 8 q.length]
    else
      let unseen := ((q.take n.toNat).filter fun x => !x.seen).length
      (s.setNotices l (q.drop n.toNat)).answer l sq .ack .ok
        [n, BitVec.ofNat 8 unseen, BitVec.ofNat 8 (q.length - n.toNat)]

/-! ### COMMIT -/

/-- A COMMIT refused at acceptance (R87, R108). -/
def State.refuseCommit (s : State) (l : Link) (sq : Byte) (r : Result) (key : Key) : State :=
  s.answer l sq .commit r (commitFields key none 0 false)

/-- R77, R87: the first clipped entry. -/
def firstClipped (l : List StagedEntry) : Option Key :=
  (l.find? fun e =>
    match e.op with
    | .put _ _ _ clipped => decide (0 < clipped)
    | .delete _ => false
    | .add _ => false).map StagedEntry.key

/-- R88: the COMMIT is accepted: the job at the tail, the row COMMITTING, the request held; the arbiter may grant at once. -/
def State.acceptCommit (s : State) (l : Link) (sq : Byte) : State :=
  let row := s.row l
  (((s.setQueue (s.commit.queue ++ [.accepted l (row.number.getD 0)])).setRow l { row with state := .committing }).hold l .commit
    sq).settle

/-- COMMIT (R87): the checks in their order. -/
def requestCommit (l : Link) (sq : Byte) (s : State) : State :=
  let row := s.row l
  if s.mount.mode = .mounting ∨ s.mount.mode = .formatting then s.refuseCommit l sq .notReady 0
  else if s.mount.mode = .halted then s.refuseCommit l sq .halted 0
  else if !row.holdsSession then s.refuseCommit l sq .noSession 0
  else if row.privilege = some .read then s.refuseCommit l sq .notPermitted 0
  else if s.mount.mode = .readOnly then s.refuseCommit l sq .readOnly 0
  else if s.mount.mode = .unformatted then s.refuseCommit l sq .notReady 0
  else if (s.jobOf l).isSome then s.refuseCommit l sq .busy 0
  else if row.staging = [] then s.refuseCommit l sq .empty 0
  else
    match firstClipped row.staging with
    | some key => s.refuseCommit l sq .truncated key
    | none => s.acceptCommit l sq

/-! ### RECLAIM, FORMAT, RESTART -/

/-- The first three checks of RECLAIM, FORMAT and RESTART (R133, R153, R154). -/
def serviceRefusal (s : State) (l : Link) : Option Result :=
  match modeRefusal s.mount.mode with
  | some r => some r
  | none =>
    if !(s.row l).holdsSession then some .noSession
    else if (s.row l).privilege ≠ some .service then some .notPermitted
    else none

/-- RECLAIM (R133). -/
def requestReclaim (l : Link) (sq : Byte) (s : State) : State :=
  match serviceRefusal s l with
  | some r => s.refuse l sq .reclaim r
  | none =>
    if s.mount.mode = .unformatted then s.refuse l sq .reclaim .notReady
    else if s.victimCandidates.isEmpty then s.answer l sq .reclaim .ok [flagBit0 false]
    else ((s.force true).answer l sq .reclaim .ok [flagBit0 true]).settle

/-- R154: the FORMAT is accepted: held, the mode FORMATTING, the claim raised. -/
def State.acceptFormat (s : State) (l : Link) (sq : Byte) : State :=
  ((((s.hold l .format sq).setMode .formatting).setFormat (some (.accepted s.mount.mode s.array.epoch)))).settle

/-- FORMAT (R154). -/
def requestFormat (l : Link) (sq : Byte) (s : State) : State :=
  match serviceRefusal s l with
  | some r => s.refuse l sq .format r
  | none =>
    if (s.row .p).state ≠ .none then s.refuse l sq .format .busy
    else if !s.commit.queue.isEmpty then s.refuse l sq .format .busy
    else if s.inService ∧ s.erasedCount = 0 then s.refuse l sq .format .busy
    else s.acceptFormat l sq

/-- R153: the restart is owed once the reply, behind the frames already in the queue, has gone. -/
def State.oweRestart (s : State) (ahead : Nat) : State :=
  if s.mount.restart = .none then s.setMount { s.mount with restart := .replyQueued ahead } else s

/-- RESTART (R153). Check 4 is taken for a second RESTART as for the first (DESIGN CHOICE, log 42). -/
def requestRestart (l : Link) (sq : Byte) (s : State) : State :=
  match serviceRefusal s l with
  | some r => s.refuse l sq .restart r
  | none =>
    if !s.commit.queue.isEmpty then s.refuse l sq .restart .busy
    else (s.oweRestart (s.link l).replies.length).answer l sq .restart .ok []

end Sys2Proof.Machine
end

