-- ==== Sys2Proof/Machine/Dealing.lean ====
section
/-!
DEFINITION. What a link does with a completed frame (R175): the steps before the request reaches its owner, and the owner of each request.
-/

namespace Sys2Proof.Machine

/-- STATUS, NOTICES and ACK pass beside a held request (R177). -/
def ReqKind.passesHeld : ReqKind → Bool
  | .status => true
  | .notices => true
  | .ack => true
  | .openSession => false
  | .renew => false
  | .close => false
  | .read => false
  | .list => false
  | .put => false
  | .append => false
  | .add => false
  | .delete => false
  | .drop => false
  | .staged => false
  | .abort => false
  | .commit => false
  | .watch => false
  | .unwatch => false
  | .reclaim => false
  | .format => false
  | .restart => false

/-- R175, steps 1 to 3; `rest` is what follows them. -/
def earlySteps (l : Link) (sq : Byte) (rest : State → State) (s : State) : State :=
  let k := s.link l
  if Config.maxReplies ≤ k.repliesTaken then s.raiseOverrun l
  else if sq ≠ 0 ∧ k.held.map Held.sequence = some sq then s
  else
    match k.cache with
    | some f => if sq ≠ 0 ∧ f.sequence = sq then s.placeFrame l f else rest s
    | none => rest s

/-- R175, steps 5 to 7: BAD-FORMAT, BUSY, or the owner, with the lease restarted (R56). -/
def lateSteps (l : Link) (sq : Byte) (kind : ReqKind) (fits : Bool) (owner : State → State) (s : State) : State :=
  if !fits then s.refuse l sq kind .badFormat
  else if (s.link l).held.isSome && !kind.passesHeld then s.refuse l sq kind .busy
  else owner (s.restartLease l)

/-- A request row: the whole request has arrived on the link and is dealt with (R175; log 1). -/
def takeRequest (l : Link) (sq : Byte) (kind : ReqKind) (fits : Bool) (owner : State → State) (s : State) : State :=
  if s.linkTakes l then earlySteps l sq (lateSteps l sq kind fits owner) (s.huntLink l) else s

/-- The owner of a request (R175, step 7). -/
def ownerOf (l : Link) (sq : Byte) : Request → State → State
  | .status => requestStatus l sq
  | .notices => requestNotices l sq
  | .ack n => requestAck l sq n
  | .openSession privilege lease => requestOpen l sq privilege lease
  | .renew privilege lease => requestRenew l sq privilege lease
  | .close => requestClose l sq
  | .read key offset maximum => requestRead l sq key offset maximum
  | .list start count => requestList l sq start count
  | .put key cls expected body => requestPut l sq key cls expected body
  | .append key bytes => requestAppend l sq key bytes
  | .add key delta => requestAdd l sq key delta
  | .delete key expected => requestDelete l sq key expected
  | .drop key => requestDrop l sq key
  | .staged => requestStaged l sq
  | .abort => requestAbort l sq
  | .commit => requestCommit l sq
  | .watch key => requestWatch l sq key
  | .unwatch key => requestUnwatch l sq key
  | .reclaim => requestReclaim l sq
  | .format => requestFormat l sq
  | .restart => requestRestart l sq

/-- R175, step 4, R179: a kind byte that is no request kind. -/
def answerUnknown (l : Link) (sq kind : Byte) (s : State) : State :=
  s.placeFrame l (.make sq (replyKind kind) [Result.unknownKind.code])

/-- R175, steps 4 to 7, for a frame. -/
def frameSteps (l : Link) (sq kind : Byte) (body : List Byte) (s : State) : State :=
  match ReqKind.ofCode kind with
  | none => answerUnknown l sq kind s
  | some k =>
    match parseBody k body with
    | none => s.refuse l sq k .badFormat
    | some r => lateSteps l sq k true (ownerOf l sq r) s

/-- A completed frame whose check agrees; the framer has returned to HUNT (R170, R175). -/
def dealFrame (l : Link) (sq kind : Byte) (body : List Byte) (s : State) : State :=
  earlySteps l sq (frameSteps l sq kind body) (s.huntLink l)

/-- The check computed over a frame (R170, R173). -/
def frameCheck (sq kind : Byte) (body : List Byte) : Half :=
  crc16 (BitVec.ofNat 8 body.length :: sq :: kind :: body)

/-- The framer has taken the second check byte (R173, R175). -/
def frameEnds (l : Link) (sq kind : Byte) (body : List Byte) (check : Half) (s : State) : State :=
  if frameCheck sq kind body = check then dealFrame l sq kind body s else (s.huntLink l).raiseCheck l

end Sys2Proof.Machine
end

