-- ==== Sys2Proof/Machine/Requests.lean ====
section
/-!
DEFINITION. The request rows of the table: the whole request with this sequence arrives on the link and is dealt with by R175, its owner's
meaning being the last step.
-/

namespace Sys2Proof.Machine

/-- STATUS (R180). -/
def execStatus (l : Link) (sq : Byte) (s : State) : Host.Outcome State Fault Refusal :=
  .next (takeRequest l sq .status true (requestStatus l sq) s)

/-- NOTICES (R164). -/
def execNotices (l : Link) (sq : Byte) (s : State) : Host.Outcome State Fault Refusal :=
  .next (takeRequest l sq .notices true (requestNotices l sq) s)

/-- ACK (R165). -/
def execAck (l : Link) (sq : Byte) (n : Byte) (s : State) : Host.Outcome State Fault Refusal :=
  .next (takeRequest l sq .ack true (requestAck l sq n) s)

/-- OPEN (R52). -/
def execOpenSession (l : Link) (sq : Byte) (privilege : Byte) (lease : Byte) (s : State) : Host.Outcome State Fault Refusal :=
  .next (takeRequest l sq .openSession true (requestOpen l sq privilege lease) s)

/-- RENEW (R53). -/
def execRenew (l : Link) (sq : Byte) (privilege : Byte) (lease : Byte) (s : State) : Host.Outcome State Fault Refusal :=
  .next (takeRequest l sq .renew true (requestRenew l sq privilege lease) s)

/-- CLOSE (R55). -/
def execClose (l : Link) (sq : Byte) (s : State) : Host.Outcome State Fault Refusal :=
  .next (takeRequest l sq .close true (requestClose l sq) s)

/-- READ (R20). -/
def execRead (l : Link) (sq : Byte) (key : Key) (offset : Half) (maximum : Byte) (s : State) : Host.Outcome State Fault Refusal :=
  .next (takeRequest l sq .read true (requestRead l sq key offset maximum) s)

/-- LIST (R23). -/
def execList (l : Link) (sq : Byte) (start : Key) (count : Byte) (s : State) : Host.Outcome State Fault Refusal :=
  .next (takeRequest l sq .list true (requestList l sq start count) s)

/-- PUT (R74). -/
def execPut (l : Link) (sq : Byte) (key : Key) (cls : Byte) (expected : Option Word) (body : List Byte) (s : State) :
    Host.Outcome State Fault Refusal :=
  .next (takeRequest l sq .put (requestFits (.put key cls expected body)) (requestPut l sq key cls expected body) s)

/-- APPEND (R77). -/
def execAppend (l : Link) (sq : Byte) (key : Key) (bytes : List Byte) (s : State) : Host.Outcome State Fault Refusal :=
  .next (takeRequest l sq .append (requestFits (.append key bytes)) (requestAppend l sq key bytes) s)

/-- ADD (R78, R79). -/
def execAdd (l : Link) (sq : Byte) (key : Key) (delta : Word) (s : State) : Host.Outcome State Fault Refusal :=
  .next (takeRequest l sq .add true (requestAdd l sq key delta) s)

/-- DELETE (R80). -/
def execDelete (l : Link) (sq : Byte) (key : Key) (expected : Option Word) (s : State) : Host.Outcome State Fault Refusal :=
  .next (takeRequest l sq .delete true (requestDelete l sq key expected) s)

/-- DROP (R81). -/
def execDrop (l : Link) (sq : Byte) (key : Key) (s : State) : Host.Outcome State Fault Refusal :=
  .next (takeRequest l sq .drop true (requestDrop l sq key) s)

/-- STAGED (R82). -/
def execStaged (l : Link) (sq : Byte) (s : State) : Host.Outcome State Fault Refusal :=
  .next (takeRequest l sq .staged true (requestStaged l sq) s)

/-- ABORT (R83). -/
def execAbort (l : Link) (sq : Byte) (s : State) : Host.Outcome State Fault Refusal :=
  .next (takeRequest l sq .abort true (requestAbort l sq) s)

/-- COMMIT (R87). -/
def execCommit (l : Link) (sq : Byte) (s : State) : Host.Outcome State Fault Refusal :=
  .next (takeRequest l sq .commit true (requestCommit l sq) s)

/-- WATCH (R59). -/
def execWatch (l : Link) (sq : Byte) (key : Key) (s : State) : Host.Outcome State Fault Refusal :=
  .next (takeRequest l sq .watch true (requestWatch l sq key) s)

/-- UNWATCH (R60). -/
def execUnwatch (l : Link) (sq : Byte) (key : Key) (s : State) : Host.Outcome State Fault Refusal :=
  .next (takeRequest l sq .unwatch true (requestUnwatch l sq key) s)

/-- RECLAIM (R133). -/
def execReclaim (l : Link) (sq : Byte) (s : State) : Host.Outcome State Fault Refusal :=
  .next (takeRequest l sq .reclaim true (requestReclaim l sq) s)

/-- FORMAT (R154). -/
def execFormat (l : Link) (sq : Byte) (s : State) : Host.Outcome State Fault Refusal :=
  .next (takeRequest l sq .format true (requestFormat l sq) s)

/-- RESTART (R153). -/
def execRestart (l : Link) (sq : Byte) (s : State) : Host.Outcome State Fault Refusal :=
  .next (takeRequest l sq .restart true (requestRestart l sq) s)

end Sys2Proof.Machine
end

