-- ==== Sys2Proof/Machine/Serial.lean ====
section
/-!
DEFINITION. The events on the links and in their sessions: FRAME_COMPLETE, BYTE_RECEIVED, GAP_TIMEOUT, the line levels and BREAK, REPLY_SENT,
LEASE_EXPIRY.
-/

namespace Sys2Proof.Machine

/-! ### Frames and bytes (R170 to R173) -/

/-- FRAME_COMPLETE (R175): a frame with its check bytes is received; a body beyond 240 bytes has no length byte that stands (R171). -/
def frameArrives (l : Link) (sq kind : Byte) (body : List Byte) (check : Half) (s : State) : State :=
  if !s.linkTakes l then s
  else if Config.maxFrameBody < body.length then s.huntLink l
  else frameEnds l sq kind body check s

def execFrameComplete (l : Link) (sq kind : Byte) (body : List Byte) (check : Half) (s : State) :
    Host.Outcome State Fault Refusal :=
  .next (frameArrives l sq kind body check s)

/-- The framer passes to a state with this frame in progress. -/
def State.frameTo (s : State) (l : Link) (f : FramerState) (frame : FrameInProgress) : State :=
  s.setLink l { s.link l with framer := f, frame := frame }

/-- R170: a byte without character error. -/
def takeByte (l : Link) (b : Byte) (s : State) : State :=
  let k := s.link l
  let f := k.frame
  match k.framer with
  | .hunt => if b = 0xC3 then s.frameTo l .length .start else s
  | .length => if b.toNat ≤ Config.maxFrameBody then s.frameTo l .sequence { f with length := b } else s.huntLink l
  | .sequence => s.frameTo l .kind { f with sequence := b }
  | .kind => s.frameTo l (if f.length = 0 then .check else .body) { f with kind := b }
  | .body =>
    let body := f.body ++ [b]
    s.frameTo l (if f.length.toNat ≤ body.length then .check else .body) { f with body := body }
  | .check =>
    match f.checkHigh with
    | none => s.frameTo l .check { f with checkHigh := some b }
    | some hi => frameEnds l f.sequence f.kind f.body (toHalf hi b) s

/-- R173: a character error drops a frame in progress and is not taken. -/
def charFails (l : Link) (s : State) : State :=
  if (s.link l).framer = .hunt then s else (s.huntLink l).raiseCheck l

/-- R172: the gap timer starts anew with each byte taken. -/
def resetGap (l : Link) (s : State) : State :=
  s.setLink l { s.link l with gapTimer := 0 }

def byteArrives (l : Link) (b : Byte) (charError : Bool) (s : State) : State :=
  if !s.linkTakes l then s else if charError then charFails l s else takeByte l b (resetGap l s)

/-- BYTE_RECEIVED (R170, R173). -/
def execByteReceived (l : Link) (byte : Byte) (charError : Bool) (s : State) : Host.Outcome State Fault Refusal :=
  .next (byteArrives l byte charError s)

/-- R172. -/
def gapEnds (l : Link) (s : State) : State :=
  if s.linkTakes l ∧ (s.link l).framer ≠ .hunt then (s.huntLink l).raiseGap l else s

/-- GAP_TIMEOUT (R172). -/
def execGapTimeout (l : Link) (s : State) : Host.Outcome State Fault Refusal :=
  .next (gapEnds l s)

/-! ### The line (R174) -/

def State.setRxSpace (s : State) (l : Link) (b : Bool) : State :=
  s.setPins { s.pins with rxSpace := s.pins.rxSpace.set l b }

def lineToSpace (l : Link) (s : State) : State :=
  let t := s.setRxSpace l true
  if t.running ∧ (t.link l).line = .mark then t.setLink l { t.link l with line := .space, breakTimer := 0 } else t

/-- RECEIVE_LINE_TO_SPACE (R174). -/
def execReceiveLineToSpace (l : Link) (s : State) : Host.Outcome State Fault Refusal :=
  .next (lineToSpace l s)

def lineToMark (l : Link) (s : State) : State :=
  let t := s.setRxSpace l false
  if t.running then t.setLink l { t.link l with line := .mark, breakTimer := 0 } else t

/-- RECEIVE_LINE_TO_MARK (R174). -/
def execReceiveLineToMark (l : Link) (s : State) : Host.Outcome State Fault Refusal :=
  .next (lineToMark l s)

/-- R110: a QUEUED or WAITING-SPACE job is cancelled, the row ended. -/
def State.cancelJob (s : State) (l : Link) : State :=
  ((s.removeJob l).endRow l).lowWater

/-- R64: the row waits for the end of its job. -/
def State.orphanRow (s : State) (l : Link) : State :=
  s.setRow l { s.row l with orphaned := true, watch := [] }

/-- R63, R110: a job in one of these states runs on after a break; a job in another is cancelled. -/
def JobState.runsOn : JobState → Bool
  | .validating => true
  | .writing => true
  | .done => true
  | .queued => false
  | .waitingSpace => false

/-- R63, R110: what a break does to the link's session and job. -/
def State.breakSession (s : State) (l : Link) : State :=
  let row := s.row l
  if !row.holdsSession then s
  else if row.state = .committing then
    match s.jobOf l with
    | some j => if j.state.runsOn then s.orphanRow l else s.cancelJob l
    | none => s.endRow l
  else s.endRow l

/-- R153: a break on Link S takes the RESTART reply from the queue. -/
def State.breakRestart (s : State) (l : Link) : State :=
  match l, s.mount.restart with
  | .s, .replyQueued _ => s.setMount { s.mount with restart := .replyGone }
  | _, _ => s

/-- R174: the link's own state at a break; the transmit line is at mark at once (DESIGN CHOICE, log 45). -/
def State.resetLink (s : State) (l : Link) : State :=
  s.setLink l { LinkState.start true with line := .broken }

/-- R174: the link reset, whole; the claims it changes are granted. -/
def lineBreaks (l : Link) (s : State) : State :=
  if s.linkTakes l then
    (((((s.setRxSpace l true).breakRestart l).resetLink l).setNotices l []).breakSession l).settle
  else s

/-- BREAK (R174). -/
def execLineBreak (l : Link) (s : State) : Host.Outcome State Fault Refusal :=
  .next (lineBreaks l s)

/-! ### Replies and leases -/

/-- R153: one frame fewer before the RESTART reply, or the reply itself has been sent. -/
def RestartState.sent : RestartState → RestartState
  | .replyQueued 0 => .replyGone
  | .replyQueued (n + 1) => .replyQueued n
  | .none => .none
  | .replyGone => .replyGone

/-- R178: the oldest frame has been sent, and the next one, if any, is being sent. -/
def replyLeaves (l : Link) (s : State) : State :=
  if s.running ∧ (s.link l).replies ≠ [] then
    let t := s.setLink l ((s.link l).withReplies (s.link l).replies.tail)
    match l with
    | .p => t
    | .s => t.setMount { t.mount with restart := t.mount.restart.sent }
  else s

/-- REPLY_SENT (R178, R153). -/
def execReplySent (l : Link) (s : State) : Host.Outcome State Fault Refusal :=
  .next (replyLeaves l s)

/-- R58: an OPEN session whose lease is not suspended expires; its watch list goes with it (log 43). -/
def leaseExpires (l : Link) (s : State) : State :=
  if s.running ∧ s.leaseRuns l then
    let row := s.row l
    (s.endRow l).sessionEndedNotice l (row.number.getD 0) row.staging.length
  else s

/-- LEASE_EXPIRY (R58). -/
def execLeaseExpiry (l : Link) (s : State) : Host.Outcome State Fault Refusal :=
  .next (leaseExpires l s)

end Sys2Proof.Machine
end

