-- ==== Sys2Proof/Machine/Dispatch.lean ====
section
/-!
DEFINITION. The dispatch: one arm per command.
-/

namespace Sys2Proof.Machine

def exec (i : Instr) (s : State) : Host.Outcome State Fault Refusal :=
  match i with
  | .status l sq => Sys2Proof.Machine.execStatus l sq s
  | .notices l sq => Sys2Proof.Machine.execNotices l sq s
  | .ack l sq n => Sys2Proof.Machine.execAck l sq n s
  | .openSession l sq privilege lease => Sys2Proof.Machine.execOpenSession l sq privilege lease s
  | .renew l sq privilege lease => Sys2Proof.Machine.execRenew l sq privilege lease s
  | .close l sq => Sys2Proof.Machine.execClose l sq s
  | .read l sq key offset maximum => Sys2Proof.Machine.execRead l sq key offset maximum s
  | .list l sq start count => Sys2Proof.Machine.execList l sq start count s
  | .put l sq key cls expected body => Sys2Proof.Machine.execPut l sq key cls expected body s
  | .append l sq key bytes => Sys2Proof.Machine.execAppend l sq key bytes s
  | .add l sq key delta => Sys2Proof.Machine.execAdd l sq key delta s
  | .delete l sq key expected => Sys2Proof.Machine.execDelete l sq key expected s
  | .drop l sq key => Sys2Proof.Machine.execDrop l sq key s
  | .staged l sq => Sys2Proof.Machine.execStaged l sq s
  | .abort l sq => Sys2Proof.Machine.execAbort l sq s
  | .commit l sq => Sys2Proof.Machine.execCommit l sq s
  | .watch l sq key => Sys2Proof.Machine.execWatch l sq key s
  | .unwatch l sq key => Sys2Proof.Machine.execUnwatch l sq key s
  | .reclaim l sq => Sys2Proof.Machine.execReclaim l sq s
  | .format l sq => Sys2Proof.Machine.execFormat l sq s
  | .restart l sq => Sys2Proof.Machine.execRestart l sq s
  | .frameComplete l sq kind body check => Sys2Proof.Machine.execFrameComplete l sq kind body check s
  | .gapTimeout l => Sys2Proof.Machine.execGapTimeout l s
  | .lineBreak l => Sys2Proof.Machine.execLineBreak l s
  | .replySent l => Sys2Proof.Machine.execReplySent l s
  | .leaseExpiry l => Sys2Proof.Machine.execLeaseExpiry l s
  | .programComplete outcome fillOk => Sys2Proof.Machine.execProgramComplete outcome fillOk s
  | .activationRecordComplete outcome => Sys2Proof.Machine.execActivationRecordComplete outcome s
  | .operationDeadline fillOk => Sys2Proof.Machine.execOperationDeadline fillOk s
  | .eraseComplete outcome => Sys2Proof.Machine.execEraseComplete outcome s
  | .eraseRecordComplete outcome => Sys2Proof.Machine.execEraseRecordComplete outcome s
  | .powerOn => Sys2Proof.Machine.execPowerOn s
  | .supplyLoss => Sys2Proof.Machine.execSupplyLoss s
  | .resetAssert => Sys2Proof.Machine.execResetAssert s
  | .resetRelease => Sys2Proof.Machine.execResetRelease s
  | .pfailAssert => Sys2Proof.Machine.execPfailAssert s
  | .pfailDeassert => Sys2Proof.Machine.execPfailDeassert s
  | .supplyReturnStart => Sys2Proof.Machine.execSupplyReturnStart s
  | .restartRequestStart => Sys2Proof.Machine.execRestartRequestStart s
  | .byteReceived l byte charError => Sys2Proof.Machine.execByteReceived l byte charError s
  | .receiveLineToSpace l => Sys2Proof.Machine.execReceiveLineToSpace l s
  | .receiveLineToMark l => Sys2Proof.Machine.execReceiveLineToMark l s

end Sys2Proof.Machine
end

