-- ==== Sys2Proof/Safety.lean ====
section
/-!
DEFINITION. What counts as a safe step and a safe state, in the terms the statements use: when a request reaches its owner, what a reply
leaves behind, and the laws of the part (laws 1, 2, 3, 9 and 10 and the canonical form of the array's bytes).
-/

namespace Sys2Proof.Safety

open Sys2Proof.Machine

/-- A step that goes on: neither a fault nor a refusal. -/
def GoesOn (o : Host.Outcome State Fault Refusal) : Prop :=
  ∃ t, o = .next t

/-- A run of commands, each going on. -/
def runAll : List Instr → State → Option State
  | [], s => some s
  | c :: cs, s =>
    match exec c s with
    | .next t => runAll cs t
    | .fault _ => none
    | .refused _ => none

/-! ### Requests -/

/-- R175, steps 2 and 3, do not apply: sequence 0, or neither the held request's nor the cached reply's. -/
def Fresh (k : LinkState) (sq : Byte) : Prop :=
  sq = 0 ∨ (k.held.map Held.sequence ≠ some sq ∧ k.cache.map Frame.sequence ≠ some sq)

/-- A request of this sequence passes R175, steps 1 to 3. -/
def Passes (s : State) (l : Link) (sq : Byte) : Prop :=
  s.linkTakes l = true ∧ (s.link l).repliesTaken < 4 ∧ Fresh (s.link l) sq

/-- It also passes step 6: no request is held. -/
def PassesFree (s : State) (l : Link) (sq : Byte) : Prop :=
  Passes s l sq ∧ (s.link l).held = none

/-- R56: what an executed request does to its link's row. -/
def freshLease (r : SessionRow) : SessionRow :=
  if r.state = .opened then { r with leaseRemaining := r.leasePeriod.map (· * 1000) } else r

/-- R181: a frame with its check. -/
def frame (sq kind : Byte) (body : List Byte) : Frame :=
  { sequence := sq, kind := kind, body := body, check := crc16 (BitVec.ofNat 8 body.length :: sq :: kind :: body) }

/-- `s` with the link's framer in HUNT. -/
def hunting (k : LinkState) : LinkState :=
  { k with framer := .hunt, frame := .start }

/-- The state that the owner of a request is given (R175, step 7): the framer in HUNT, the lease restarted, nothing else changed. -/
def atOwner (s : State) (l : Link) : State :=
  (s.setRow l (freshLease (s.row l))).setLink l (hunting (s.link l))

/-- A link that has placed a reply: the frame at the end of the queue and in the cache, the oldest frame on the line (R176, R178). -/
def withReply (k : LinkState) (f : Frame) : LinkState :=
  { k with framer := .hunt, frame := .start, replies := k.replies ++ [f], cache := some f, tx := txOf (k.replies ++ [f]) }

/-- `s` after a request dealt with whole: the framer in HUNT, the reply placed and cached, the row of the link as given, and nothing else
changed. -/
def replied (s : State) (l : Link) (row : SessionRow) (f : Frame) : State :=
  (s.setRow l row).setLink l (withReply (s.link l) f)

/-- `s` after a request whose owner refused it: the lease restarted, a reply of the code and of `n` zeros (R183). -/
def refusedWith (s : State) (l : Link) (sq kind code : Byte) (n : Nat) : State :=
  replied s l (freshLease (s.row l)) (frame sq kind (code :: List.replicate n 0))

/-- READY, READ-ONLY or UNFORMATTED: the modes in which the owners of READ, LIST and the session requests answer. -/
def answersMode (m : StoreMode) : Prop :=
  m = .ready ∨ m = .readOnly ∨ m = .unformatted

/-- The row holds an OPEN session of a privilege (R49). -/
def OpenWith (r : SessionRow) (p : Privilege) : Prop :=
  r.state = .opened ∧ r.orphaned = false ∧ r.privilege = some p

/-- R66, R183: flags, free slots, free bytes, entries of the session's own list, as they stand. -/
def poolReply (t : State) (l : Link) (flags : Byte) : List Byte :=
  flags :: BitVec.ofNat 8 t.poolFreeSlots :: be16 (BitVec.ofNat 16 t.poolFreeBytes) ++ [BitVec.ofNat 8 (t.row l).staging.length]

/-! ### The array at rest -/

/-- Nothing but a command of the head's kind can be granted: no job, an idle reclaimer, no FORMAT, no RESTART owed. -/
def Quiet (s : State) : Prop :=
  s.commit.queue = [] ∧ s.reclaim.state = .idle ∧ s.mount.format = none ∧ s.mount.restart = .none

/-- R116: a low-water cycle is wanted: the reclaimer at rest, 4 ERASED sectors or fewer, and a FULL sector, not barred, with waste or
retire-pending. -/
abbrev CycleWanted (s : State) : Prop :=
  s.reclaim.state = .idle ∧ (s.mount.mode = .ready ∨ s.mount.mode = .readOnly) ∧ s.erasedCount ≤ 4 ∧
    ∃ k, (s.sec k).state = .full ∧ k ∉ s.reclaim.barred ∧ (0 < (s.sec k).waste ∨ (s.sec k).retirePending = true)

/-- R116: the reclaimer claims where a low-water cycle is wanted. -/
def atLowWater (s : State) : State :=
  if CycleWanted s then s.setReclaim { s.reclaim with state := .claimMove } else s

/-- R38: the sector FULL, its free units waste. -/
def withClosed (s : State) (i : Sector) : State :=
  s.setSec i { s.sec i with state := .full, waste := (s.sec i).waste + (256 - (s.sec i).nextFree), nextFree := 256 }

/-! ### Images on their way to the array -/

/-- R31, R39: the program of the image is begun at the ACTIVE sector's next free unit; or that sector, where the image does not fit, is closed
and the activation record of another is begun for the image; or, with none ACTIVE, an activation record. -/
def Placed (s : State) (img : Image) (t : State) : Prop :=
  (∃ i, s.activeSector = some i ∧ img.units ≤ 256 - (s.sec i).nextFree ∧
    t = s.startOp (.image img { sector := i, unit := (s.sec i).nextFree })) ∨
  (∃ i k, s.activeSector = some i ∧ 256 - (s.sec i).nextFree < img.units ∧ (withClosed s i).chooseErased = some k ∧
    t = (withClosed s i).startOp (.activation k img)) ∨
  (∃ k, s.activeSector = none ∧ s.chooseErased = some k ∧ t = s.startOp (.activation k img))

/-- R32: the program of an image has failed: its span 00H, or where the fill does not read back bytes in an unknown state (free bytes, log 9), and
dead; the sector suspect, or, where it was so or the fill failed, closed with retire-pending. -/
def failedSpan (s : State) (img : Image) (loc : Location) (fillOk : Bool) : State :=
  let i := loc.sector
  let start := i.val * 4096 + loc.unit * 16
  let span := if fillOk then s.clearOp.setMem (Memory.writeBytes s.array.mem start (List.replicate (img.units * 16) 0))
              else s.clearOp.scribble start (img.units * 16)
  let dead := { s.sec i with nextFree := (s.sec i).nextFree + img.units, waste := (s.sec i).waste + img.units }
  span.setSec i
    (if fillOk = true ∧ (s.sec i).suspect = false then { dead with suspect := true }
     else { dead with state := .full, waste := dead.waste + (256 - dead.nextFree), nextFree := 256, retirePending := true })

/-- R102: the committed value of a counter reads back: a RECORD, or a COPY of one, of class COUNTER and 4 bytes with the entry's key and
generation. -/
def CounterReads (s : State) (key : Key) (value : Word) : Prop :=
  ∃ cls e a b c d, Directory.live s.directory key = some (cls, e) ∧ value = a ++ b ++ c ++ d ∧
    (readImage s.array.mem e.location.sector e.location.unit = .valid (.record .counter key [a, b, c, d] e.generation) ∨
      readImage s.array.mem e.location.sector e.location.unit = .valid (.copyRecord .counter key [a, b, c, d] e.generation))

/-- R101, R102: the image that a staged entry gives under the transaction number, and whether an ADD saturated. -/
def FormsImage (s : State) (txn : Word) (e : StagedEntry) (img : Image) (saturated : Bool) : Prop :=
  match e.op with
  | .put cls _ body _ => img = .record cls e.key body txn ∧ saturated = false
  | .delete _ => img = .void e.key txn ∧ saturated = false
  | .add delta =>
    ∃ value, CounterReads s e.key value ∧
      let sum : Int := (value.toNat : Int) + delta.toInt
      img = .record .counter e.key (be32 (BitVec.ofInt 32 (max 0 (min 4294967295 sum)))) txn ∧
        saturated = decide (sum < 0 ∨ 4294967295 < sum)

/-- R105, R144: every sector's waste raised by the sizes of the places that lie in it. -/
def withWaste (s : State) (l : List Place) : State :=
  s.setTable (Vector.ofFn fun k =>
    { s.sec k with waste := (s.sec k).waste + ((l.filter fun p => p.location.sector == k).map Place.size).sum })

/-- R119: of each two consecutive sectors that differ the later is joined to the earlier. -/
def withJoins (s : State) (l : List Sector) : State :=
  s.setReclaim { s.reclaim with
    span := (l.zip l.tail).foldl (fun v p => if p.1 = p.2 then v else v.set p.2.val (some p.1) p.2.isLt) s.reclaim.span }

/-! ### The end of a job -/

/-- R177, R178: the held reply placed in the queue and in the cache, the held slot empty. -/
def heldAnswered (k : LinkState) (f : Frame) : LinkState :=
  { k with held := none, replies := k.replies ++ [f], cache := some f, tx := txOf (k.replies ++ [f]) }

/-- The report of a job that has its result (R96, R105, R107, R108, R110, R112): the held reply and the row OPEN with a full lease, its staging
kept but for OK; in HALTED the reply and the row ended; an orphaned row ended with COMMIT-RESULT in place of the reply. -/
def jobReported (s : State) (j : CommitJob) (code : Byte) (key : Key) (count : Nat) (saturated : Bool) : State :=
  let row := s.row j.link
  let body := code :: be16 key ++ be32 (j.txn.getD 0) ++ [BitVec.ofNat 8 count, if saturated then 1 else 0]
  let answered :=
    match (s.link j.link).held with
    | some h => s.setLink j.link (heldAnswered (s.link j.link) (frame h.sequence (h.kind.code + 0x80) body))
    | none => s
  if row.orphaned then
    (s.offerNotice j.link .commitResult j.session (code ++ (j.txn.getD 0).extractLsb' 0 24)).setRow j.link .none
  else if s.mount.mode = .halted then answered.setRow j.link .none
  else
    answered.setRow j.link
      { row with state := .opened, staging := if code = 0x00 then [] else row.staging
                 leaseRemaining := row.leasePeriod.map (· * 1000) }

/-- The end of a job that holds the array, from the state after its apply or its waste: the report, the queue left, the low-water evaluation
(R116), the array free (R90). -/
def jobEnded (s : State) (j : CommitJob) (code : Byte) (key : Key) (count : Nat) (saturated : Bool) : State :=
  (atLowWater ((jobReported s j code key count saturated).setQueue (s.commit.queue.filter fun x => x.link != j.link))).setTenancy .none

/-- The end of a format (R156, R157): the held reply and a full lease on Link S, the mode set, the mount unit at rest, the array free, the
low-water evaluation. -/
def formatEnded (s : State) (mode : StoreMode) (code : Byte) : State :=
  let answered :=
    match (s.link .s).held with
    | some h => s.setLink .s (heldAnswered (s.link .s) (frame h.sequence (h.kind.code + 0x80) [code]))
    | none => s
  (atLowWater ((answered.setRow .s (freshLease (s.row .s))).setMount
    { s.mount with mode := mode, activity := .none, format := none })).setTenancy .none

/-! ### The choice of a victim -/

/-- R121: the chain of joins from a sector back to its predecessors ends, and `r` is the first sector of it. -/
inductive ChainRoot (s : State) : Sector → Sector → Prop
  | first {i : Sector} (alone : s.reclaim.span[i.val] = none) : ChainRoot s i i
  | joined {i p r : Sector} (join : s.reclaim.span[i.val] = some p) (root : ChainRoot s p r) : ChainRoot s i r

/-- R121, with these sectors set aside: the steps of R120 give none and there is no victim; or they take one whose chain begins at a sector that
is not barred, the victim; or at a barred one, and the steps are taken again without the sector taken. -/
inductive VictimChosen (s : State) (rotates : Bool) : List Sector → Option Sector → Prop
  | none {aside : List Sector} (step : s.chooseStep rotates aside = none) : VictimChosen s rotates aside none
  | root {aside : List Sector} {i : Sector} (step : s.chooseStep rotates aside = some i) (free : s.chainRoot 48 i ∉ s.reclaim.barred) :
    VictimChosen s rotates aside (some (s.chainRoot 48 i))
  | again {aside : List Sector} {i : Sector} {v : Option Sector} (step : s.chooseStep rotates aside = some i)
    (barred : s.chainRoot 48 i ∈ s.reclaim.barred) (rest : VictimChosen s rotates (i :: aside) v) : VictimChosen s rotates aside v

/-! ### The end of a reclaim cycle -/

/-- R118: a further cycle is wanted where no forced one is owed. -/
abbrev MoreWanted (s : State) : Prop :=
  (s.mount.mode = .ready ∨ s.mount.mode = .readOnly) ∧ s.erasedCount < 6 ∧
    ∃ k, (s.sec k).state = .full ∧ k ∉ s.reclaim.barred ∧ (0 < (s.sec k).waste ∨ (s.sec k).retirePending = true)

/-- R118, and the end of the tenancy (R130, R132): a waiting job claims, what the cycle carried is gone, the reclaimer claims again or is at
rest. -/
def cycleEnded (s : State) : State :=
  ((s.setQueue (s.commit.queue.map fun j => if j.state = .waitingSpace then { j with state := .queued } else j)).setReclaim
    { s.reclaim with
      state := if s.reclaim.forced = true ∨ MoreWanted s then .claimMove else .idle
      victim := none, openTxn := none, tally := [], relocated := [], walkUnit := 2, copyFailures := 0 }).setTenancy .none

/-- R132: the joins to a sector are cleared. -/
def withoutJoins (s : State) (v : Sector) : State :=
  s.setReclaim { s.reclaim with span := s.reclaim.span.map fun p => if p = some v then none else p }

/-- R134, R153: a move phase that the part's stop ends between two operations. -/
def moveStopped (s : State) : State :=
  (s.setReclaim { s.reclaim with
    state := .idle, victim := none, forced := false, requested := false, openTxn := none, tally := [], relocated := [], walkUnit := 2
    copyFailures := 0 }).setTenancy .none

/-! ### Laws -/

/-- Law 1 (R7): the directory in strictly ascending key order. -/
def DirectoryOrdered (s : State) : Prop :=
  s.directory.Pairwise fun a b => a.key.toNat < b.key.toNat

/-- A staged body in its limits: at most 496 bytes (R67), exactly 4 for a COUNTER (R4). -/
def bodyInLimits (e : StagedEntry) : Bool :=
  match e.op with
  | .put cls _ body _ => if cls = .counter then body.length == 4 else decide (body.length ≤ 496)
  | .delete _ => true
  | .add _ => true

/-- Law 2 (R67): per session at most 16 entries, no two of one key, every body in its limits; together at most 24 slots and 1536 bytes. -/
def StagingLaw (s : State) : Prop :=
  (∀ l, (s.row l).staging.length ≤ 16) ∧
  (∀ l, (s.row l).staging.Pairwise fun a b => a.key ≠ b.key) ∧
  (∀ l, ∀ e ∈ (s.row l).staging, bodyInLimits e = true) ∧
  (s.row .p).staging.length + (s.row .s).staging.length ≤ 24 ∧
  stagedBytes (s.row .p).staging + stagedBytes (s.row .s).staging ≤ 1536

/-- Law 3 (R39): at most one sector is ACTIVE, and none while an activation record is being programmed. -/
def ActiveLaw (s : State) : Prop :=
  (∀ i j, s.inState .active i = true → s.inState .active j = true → i = j) ∧
  ∀ i img, s.array.op = some (.activation i img) → ∀ j, s.inState .active j = false

/-- Law 9 (R159) of one queue: at most 8 entries, no two of one kind and subject, at most 7 of kinds other than LOST, counts of 1 to 255,
and the line active exactly while the queue is not empty. -/
def NoticeLawOf (q : NoticeQueue) : Prop :=
  q.entries.length ≤ 8 ∧
  (q.entries.Pairwise fun a b => ¬ (a.kind = b.kind ∧ a.subject = b.subject)) ∧
  (q.entries.filter fun n => n.kind != .lost).length ≤ 7 ∧
  (∀ n ∈ q.entries, 1 ≤ n.repeats ∧ n.repeats ≤ 255) ∧
  q.attn = !q.entries.isEmpty

def NoticeLaw (s : State) : Prop :=
  ∀ l, NoticeLawOf (s.noticeQueue l)

/-- R178: at most 4 places of each reply queue are taken, the reserved one included. -/
def ReplyLaw (s : State) : Prop :=
  ∀ l, (s.link l).repliesTaken ≤ 4

/-- R178, R184: a transmit line is at mark or sends the oldest frame of its reply queue. -/
def TransmitLawOf (k : LinkState) : Prop :=
  k.tx = .mark ∨ k.tx = txOf k.replies

def TransmitLaw (s : State) : Prop :=
  ∀ l, TransmitLawOf (s.link l)

/-- Law 10, the queue half (R89): no two jobs of one link. -/
def QueueLaw (s : State) : Prop :=
  s.commit.queue.Pairwise fun a b => a.link ≠ b.link

/-- R50: the two rows never hold the same session number. -/
def NumbersDiffer (s : State) : Prop :=
  (s.row .p).number = none ∨ (s.row .p).number ≠ (s.row .s).number

/-- The canonical form of the array's bytes. -/
def ArrayCanonical (s : State) : Prop :=
  Memory.wf s.array.mem

end Sys2Proof.Safety
end

