-- ==== Sys2Proof/Certificates/Slice0/Obligations.lean ====
section
/-!
DEFINITION. The statements for the provers. Sequences, kinds and codes are those of chapter 10; a reply is written out byte by byte.
-/

open Sys2Proof Sys2Proof.Machine Sys2Proof.Safety

/-! ### The step -/

/-- In place of "a step runs the decoded instruction": the command at the front of the queue is run on the state with the queue's rest. -/
def Obligations.StepRunsFront : Prop :=
  ∀ (c : Instr) (rest : List Instr) (s : State),
    step { s with pending := c :: rest } = exec c { s with pending := rest }

/-- The spec gives every command an effect (95, chapter 9, R139 to R158): none ends in a fault or a refusal, in any state. -/
def Obligations.EveryCommandGoesOn : Prop :=
  ∀ (c : Instr) (s : State), GoesOn (exec c s)

/-! ### Requests about the part and its notices -/

/-- STATUS (R180, 10.4.1): the 39 bytes, each item as it stands once the lease is restarted, and no other change. -/
def Obligations.StatusReports : Prop :=
  ∀ (l : Link) (sq : Byte) (s : State), Passes s l sq →
    let r := freshLease (s.row l)
    exec (.status l sq) s = .next (replied s l r (frame sq 0x81
      ([0x00, 0x4F, 0x40, 0x01, s.mount.mode.code, s.mount.cause.code, s.mount.flags.byte] ++
        (if r.state ≠ .none ∧ r.orphaned = false then
          [r.state.code] ++ be16 (r.number.getD 0) ++
            [(r.privilege.map Privilege.code).getD 0, BitVec.ofNat 8 ((r.leaseRemaining.getD 0 + 999) / 1000)]
        else [0, 0, 0, 0, 0]) ++
        [((s.link l).held.map fun h => h.kind.code).getD 0] ++
        be16 (BitVec.ofNat 16 (s.directory.filter fun e => e.body.isLive).length) ++
        be16 (BitVec.ofNat 16 (s.directory.filter fun e => !e.body.isLive).length) ++
        [BitVec.ofNat 8 (s.countState .erased), BitVec.ofNat 8 (s.countState .full), BitVec.ofNat 8 (s.countState .retired),
          BitVec.ofNat 8 s.activeFree] ++
        be16 (BitVec.ofNat 16 s.totalWaste) ++ be32 s.commit.nextTxn ++ [s.array.tenancy.code] ++
        [BitVec.ofNat 8 (24 - ((s.row .p).staging.length + (s.row .s).staging.length))] ++
        be16 (BitVec.ofNat 16 (1536 - (stagedBytes (s.row .p).staging + stagedBytes (s.row .s).staging))) ++
        [BitVec.ofNat 8 s.commit.queue.length] ++
        be16 (s.link l).checkCount ++ be16 (s.link l).gapCount ++ be16 (s.link l).overrunCount ++
        [BitVec.ofNat 8 (s.noticeQueue l).entries.length])))

/-- NOTICES (R164): the count and every entry in queue order, each then seen; nothing is removed. ACK (R165): the n oldest entries leave and
the unseen ones of them are counted; a count above the queue's length is refused and changes nothing. On Link S in FORMATTING with no held
request both are NOT-READY (R175). -/
def Obligations.NoticesAndAck : Prop :=
  ∀ (l : Link) (sq n : Byte) (s : State), Passes s l sq → s.mount.mode ≠ .halted →
    let q := (s.noticeQueue l).entries
    let after := fun body : List Byte => replied s l (freshLease (s.row l)) (frame sq 0x83 body)
    let notReady := s.mount.mode = .formatting ∧ l = .s ∧ (s.link l).held = none
    (notReady →
      exec (.notices l sq) s = .next (refusedWith s l sq 0x82 0x11 1) ∧ exec (.ack l sq n) s = .next (refusedWith s l sq 0x83 0x11 3)) ∧
    (¬ notReady → exec (.notices l sq) s = .next
      ((replied s l (freshLease (s.row l)) (frame sq 0x82
        (0x00 :: BitVec.ofNat 8 q.length ::
          q.flatMap fun n => [n.kind.code] ++ be16 n.subject ++ be32 n.detail ++ [BitVec.ofNat 8 n.repeats]))).setNotices l
        (q.map fun n => { n with seen := true }))) ∧
    (¬ notReady → n.toNat ≤ q.length →
      exec (.ack l sq n) s = .next
        ((after [0x00, n, BitVec.ofNat 8 ((q.take n.toNat).filter fun x => !x.seen).length,
          BitVec.ofNat 8 (q.length - n.toNat)]).setNotices l (q.drop n.toNat))) ∧
    (¬ notReady → q.length < n.toNat → exec (.ack l sq n) s = .next (after [0x23, 0, 0, BitVec.ofNat 8 q.length]))

/-- R161, R162: the four ways in which a queue takes a notice, the first that applies; the queue's line is active then (R166), and nothing
else changes. -/
def Obligations.NoticeTakenInOneOfFourWays : Prop :=
  ∀ (s : State) (l : Link) (kind : NoticeKind) (subject : Half) (detail : Word), kind ≠ .lost →
    let q := (s.noticeQueue l).entries
    let same := fun n : Notice => n.kind = kind ∧ n.subject = subject
    let counted : Word := kind.code ++ (0 : Byte) ++ subject
    let after :=
      if ∃ n ∈ q, same n then
        q.map fun n => if same n then { n with detail := detail, repeats := min 255 (n.repeats + 1), seen := false } else n
      else if ∃ n ∈ q, n.kind = .lost then
        q.map fun n =>
          if n.kind = .lost then { n with detail := counted, repeats := min 255 (n.repeats + 1), seen := false } else n
      else if q.length < 7 then
        q ++ [{ kind := kind, subject := subject, detail := detail, repeats := 1, seen := false }]
      else q ++ [{ kind := .lost, subject := 0, detail := counted, repeats := 1, seen := false }]
    s.offerNotice l kind subject detail = { s with notices := s.notices.set l { entries := after, attn := true } }

/-! ### Sessions -/

/-- OPEN (R50, R52): the number is the counter's, or the one after it where the other row holds that; the counter passes it; the row is
OPEN with its lease at the full period and empty lists. Refused in R52's order: SESSION-OPEN, BUSY for an orphaned row, BAD-VALUE for a
field, NOT-PERMITTED for SERVICE on Link P; then nothing but the lease and the reply changes. -/
def Obligations.OpenOpensSession : Prop :=
  ∀ (l : Link) (sq privilege lease : Byte) (s : State), PassesFree s l sq → answersMode s.mount.mode →
    let after := fun n : Half => if n = 0xFFFF then (1 : Half) else n + 1
    let n := if (s.row l.other).number = some s.sessionCounter then after s.sessionCounter else s.sessionCounter
    let absent := (s.row l).state = .none ∧ (s.row l).orphaned = false
    let badField := privilege = 0 ∨ 3 < privilege.toNat ∨ lease = 0 ∨ 120 < lease.toNat
    (∀ p : Privilege, p.code = privilege → absent → ¬ badField → (l = .p → p ≠ .service) →
      exec (.openSession l sq privilege lease) s = .next
        (replied (s.setSessionCounter (after n)) l
          { state := .opened, orphaned := false, number := some n, privilege := some p, leasePeriod := some lease.toNat,
            leaseRemaining := some (lease.toNat * 1000), staging := [], watch := [] }
          (frame sq 0x90 ([0x00] ++ be16 n ++ [privilege, lease])))) ∧
    ((s.row l).state ≠ .none → (s.row l).orphaned = false →
      exec (.openSession l sq privilege lease) s = .next (refusedWith s l sq 0x90 0x31 4)) ∧
    ((s.row l).orphaned = true → exec (.openSession l sq privilege lease) s = .next (refusedWith s l sq 0x90 0x10 4)) ∧
    (absent → badField → exec (.openSession l sq privilege lease) s = .next (refusedWith s l sq 0x90 0x23 4)) ∧
    (absent → ¬ badField → l = .p → privilege = 3 →
      exec (.openSession l sq privilege lease) s = .next (refusedWith s l sq 0x90 0x32 4))

/-- RENEW (R53) and the demotion discard (R54): a lowered privilege frees the whole staging list, any other keeps it; number and watch list stay;
a field out of range is BAD-VALUE, then SERVICE on Link P NOT-PERMITTED. CLOSE (R55, R62): the row is NONE with everything absent or empty; the
reply gives the number and the entries discarded. -/
def Obligations.RenewAndClose : Prop :=
  ∀ (l : Link) (sq : Byte) (s : State), PassesFree s l sq → answersMode s.mount.mode →
    (∀ (old p : Privilege) (lease : Byte), OpenWith (s.row l) old → 1 ≤ lease.toNat → lease.toNat ≤ 120 → (l = .p → p ≠ .service) →
      let lowered := (old = .service ∧ p ≠ .service) ∨ (old = .write ∧ p = .read)
      exec (.renew l sq p.code lease) s = .next
        (replied s l
          { s.row l with
            privilege := some p, leasePeriod := some lease.toNat, leaseRemaining := some (lease.toNat * 1000)
            staging := if lowered then [] else (s.row l).staging }
          (frame sq 0x91 ([0x00] ++ be16 ((s.row l).number.getD 0) ++
            [p.code, lease, BitVec.ofNat 8 (if lowered then (s.row l).staging.length else 0)])))) ∧
    (∀ privilege lease : Byte, (s.row l).state ≠ .none → (s.row l).orphaned = false →
      let badField := privilege = 0 ∨ 3 < privilege.toNat ∨ lease = 0 ∨ 120 < lease.toNat
      (badField → exec (.renew l sq privilege lease) s = .next (refusedWith s l sq 0x91 0x23 5)) ∧
      (¬ badField → l = .p → privilege = 3 → exec (.renew l sq privilege lease) s = .next (refusedWith s l sq 0x91 0x32 5))) ∧
    ((s.row l).state = .opened → (s.row l).orphaned = false →
      exec (.close l sq) s = .next
        (replied s l
          { state := .none, orphaned := false, number := none, privilege := none, leasePeriod := none, leaseRemaining := none,
            staging := [], watch := [] }
          (frame sq 0x92 ([0x00] ++ be16 ((s.row l).number.getD 0) ++ [BitVec.ofNat 8 (s.row l).staging.length]))))

/-- WATCH (R59): a key in the list changes nothing, a list of 8 is full, any other key goes to the end. UNWATCH (R60): the key leaves, the
others keep their order; a key not in the list is NOT-FOUND. Key 0000H or FFFFH is BAD-KEY for both. Neither touches the notice queue. -/
def Obligations.WatchListChanges : Prop :=
  ∀ (l : Link) (sq : Byte) (key : Key) (s : State), PassesFree s l sq → answersMode s.mount.mode →
    (s.row l).state = .opened → (s.row l).orphaned = false →
    let r := freshLease (s.row l)
    let left := r.watch.filter (· != key)
    let badKey := key = 0 ∨ key = 0xFFFF
    (badKey →
      exec (.watch l sq key) s = .next (refusedWith s l sq 0xD0 0x22 1) ∧
      exec (.unwatch l sq key) s = .next (refusedWith s l sq 0xD1 0x22 1)) ∧
    (¬ badKey → key ∈ r.watch →
      exec (.watch l sq key) s = .next (replied s l r (frame sq 0xD0 [0x00, BitVec.ofNat 8 r.watch.length])) ∧
      exec (.unwatch l sq key) s = .next
        (replied s l { r with watch := left } (frame sq 0xD1 [0x00, BitVec.ofNat 8 left.length]))) ∧
    (¬ badKey → key ∉ r.watch → 8 ≤ r.watch.length →
      exec (.watch l sq key) s = .next (replied s l r (frame sq 0xD0 [0x53, BitVec.ofNat 8 r.watch.length]))) ∧
    (¬ badKey → key ∉ r.watch → r.watch.length < 8 →
      exec (.watch l sq key) s = .next
        (replied s l { r with watch := r.watch ++ [key] } (frame sq 0xD0 [0x00, BitVec.ofNat 8 (r.watch.length + 1)]))) ∧
    (¬ badKey → key ∉ r.watch → exec (.unwatch l sq key) s = .next (refusedWith s l sq 0xD1 0x40 1))

/-- LEASE_EXPIRY (R57, R58): an OPEN session ends with SESSION-ENDED, its number the subject and its staged entries the detail; a session
that is not OPEN, or whose link holds a FORMAT, does not expire (of a row with no running lease the event cannot come: log 3). A step on an
empty queue (R56, R57; log 5): a millisecond of each lease that runs, of the gap timers outside HUNT, of the break timers in SPACE and of the
operation in flight, and nothing else; with supply out of range or RESET asserted nothing. -/
def Obligations.LeaseRunsAndExpires : Prop :=
  (∀ (l : Link) (s : State), s.running = true →
    let suspended := (s.row l).state ≠ .opened ∨ (s.link l).held.map Held.kind = some .format
    (¬ suspended →
      exec (.leaseExpiry l) s = .next
        ((s.setRow l SessionRow.none).offerNotice l .sessionEnded ((s.row l).number.getD 0)
          (BitVec.ofNat 32 (s.row l).staging.length))) ∧
    (suspended → exec (.leaseExpiry l) s = .next s)) ∧
  ∀ s : State, s.pending = [] →
    let lease := fun (r : SessionRow) (k : LinkState) =>
      if r.state = .opened ∧ k.held.map Held.kind ≠ some .format then { r with leaseRemaining := r.leaseRemaining.map (· - 1) } else r
    let timers := fun k : LinkState =>
      { k with gapTimer := if k.framer = .hunt then k.gapTimer else k.gapTimer + 1
               breakTimer := if k.line = .space then k.breakTimer + 1 else k.breakTimer }
    (s.running = true → ¬ (s.mount.activity = .scan ∧ s.mount.phase = .heads ∧ s.array.op = none) →
      step s = .next { s with
        sessions := { p := lease s.sessions.p s.links.p, s := lease s.sessions.s s.links.s }
        links := { p := timers s.links.p, s := timers s.links.s }
        array := { s.array with opTimer := if s.array.op = none then s.array.opTimer else s.array.opTimer + 1 } }) ∧
    (s.running = false → step s = .next s)

/-- R51: every request that needs a session is refused NO-SESSION, with its fixed part of zeros, on a link whose row is NONE or orphaned. RECLAIM,
FORMAT and RESTART are NOT-PERMITTED below SERVICE (R133, R153, R154), and RECLAIM is NOT-READY in UNFORMATTED (R133). -/
def Obligations.NoSessionRefused : Prop :=
  ∀ (l : Link) (sq privilege lease cls : Byte) (key : Key) (expected : Option Word) (delta : Word) (bytes : List Byte) (s : State),
    PassesFree s l sq → bytes.length ≤ 224 →
    let absent := (s.row l).state = .none ∨ (s.row l).orphaned = true
    let refused := fun (x : Instr × Byte × Nat) (code : Byte) => exec x.1 s = .next (refusedWith s l sq x.2.1 code x.2.2)
    let service : List (Instr × Byte × Nat) := [(.reclaim l sq, 0xE0, 1), (.format l sq, 0xE1, 0), (.restart l sq, 0xE2, 0)]
    (s.mount.mode = .ready → absent →
      ∀ x ∈ ([(.put l sq key cls expected bytes, 0xB0, 5), (.append l sq key bytes, 0xB1, 3), (.add l sq key delta, 0xB2, 5),
          (.delete l sq key expected, 0xB3, 5), (.drop l sq key, 0xB4, 5), (.staged l sq, 0xB5, 1), (.abort l sq, 0xB6, 1)]
          : List (Instr × Byte × Nat)), refused x 0x30) ∧
    (answersMode s.mount.mode → absent →
      ∀ x ∈ ([(.renew l sq privilege lease, 0x91, 5), (.close l sq, 0x92, 3), (.commit l sq, 0xC0, 8), (.watch l sq key, 0xD0, 1),
          (.unwatch l sq key, 0xD1, 1)] : List (Instr × Byte × Nat)) ++ service, refused x 0x30) ∧
    (answersMode s.mount.mode → ¬ absent → (s.row l).privilege ≠ some .service → ∀ x ∈ service, refused x 0x32) ∧
    (s.mount.mode = .unformatted → OpenWith (s.row l) .service → refused (.reclaim l sq, 0xE0, 1) 0x11)

/-- R151, R138, R154: every request but STATUS is answered HALTED in HALTED, NOTICES and ACK included; in MOUNTING and FORMATTING every request but
STATUS, NOTICES and ACK is NOT-READY; and nothing changes but the request's link. -/
def Obligations.ModeRefusesRequests : Prop :=
  ∀ (l : Link) (sq n privilege lease cls count : Byte) (key offset : Half) (expected : Option Word) (delta : Word) (bytes : List Byte)
    (s : State),
    PassesFree s l sq → bytes.length ≤ 224 →
    let refused := fun (x : Instr × Byte × Nat) (code : Byte) => exec x.1 s = .next (refusedWith s l sq x.2.1 code x.2.2)
    let others : List (Instr × Byte × Nat) := [(.openSession l sq privilege lease, 0x90, 4), (.renew l sq privilege lease, 0x91, 5),
      (.close l sq, 0x92, 3), (.read l sq key offset count, 0xA0, 7), (.list l sq key count, 0xA1, 3),
      (.put l sq key cls expected bytes, 0xB0, 5), (.append l sq key bytes, 0xB1, 3), (.add l sq key delta, 0xB2, 5),
      (.delete l sq key expected, 0xB3, 5), (.drop l sq key, 0xB4, 5), (.staged l sq, 0xB5, 1), (.abort l sq, 0xB6, 1),
      (.commit l sq, 0xC0, 8), (.watch l sq key, 0xD0, 1), (.unwatch l sq key, 0xD1, 1), (.reclaim l sq, 0xE0, 1),
      (.format l sq, 0xE1, 0), (.restart l sq, 0xE2, 0)]
    (s.mount.mode = .halted → ∀ x ∈ (.notices l sq, 0x82, 1) :: (.ack l sq n, 0x83, 3) :: others, refused x 0x12) ∧
    (s.mount.mode = .mounting ∨ s.mount.mode = .formatting → ∀ x ∈ others, refused x 0x11)

/-! ### Reading -/

/-- READ, committed view (R20, R21): the bytes of the image at the entry's location from the offset on, or MEDIA-FAULT where the read path
gives anything but that entry's image; an offset beyond the length is BAD-VALUE. -/
def Obligations.ReadCommittedView : Prop :=
  ∀ (l : Link) (sq maximum : Byte) (key offset : Half) (e : DirEntry) (cls : RecClass) (n : Nat) (s : State),
    PassesFree s l sq → answersMode s.mount.mode → key ≠ 0 → key ≠ 0xFFFF → 1 ≤ maximum.toNat → maximum.toNat ≤ 224 →
    ((s.row l).state = .opened → ∀ x ∈ (s.row l).staging, x.key ≠ key) →
    s.directory.find? (fun x => x.key == key) = some e → e.body = .live cls n →
    let image := readImage s.array.mem e.location.sector e.location.unit
    (offset.toNat ≤ n → ∀ c body,
      (image = .valid (.record c key body e.generation) ∨ image = .valid (.copyRecord c key body e.generation)) →
      exec (.read l sq key offset maximum) s = .next
        (replied s l (freshLease (s.row l)) (frame sq 0xA0
          ([0x00, 0x00] ++ be32 e.generation ++ be16 (BitVec.ofNat 16 n) ++ (body.drop offset.toNat).take maximum.toNat)))) ∧
    (offset.toNat ≤ n →
      (∀ c body, image ≠ .valid (.record c key body e.generation) ∧ image ≠ .valid (.copyRecord c key body e.generation)) →
      exec (.read l sq key offset maximum) s = .next (refusedWith s l sq 0xA0 0x60 7)) ∧
    (n < offset.toNat → exec (.read l sq key offset maximum) s = .next (refusedWith s l sq 0xA0 0x23 7))

/-- READ, staged view (R22): a staged PUT as staged, a staged DELETE as gone, a staged ADD as the committed value and the delta, saturated, or
MEDIA-FAULT with STAGED set where the committed value does not read back; an offset beyond the length is BAD-VALUE with the flag clear
(log 23). -/
def Obligations.ReadStagedView : Prop :=
  ∀ (l : Link) (sq maximum : Byte) (key offset : Half) (e : StagedEntry) (s : State),
    PassesFree s l sq → answersMode s.mount.mode → key ≠ 0 → key ≠ 0xFFFF → 1 ≤ maximum.toNat → maximum.toNat ≤ 224 →
    (s.row l).state = .opened → (s.row l).staging.find? (fun x => x.key == key) = some e →
    let answered := fun body : List Byte =>
      exec (.read l sq key offset maximum) s = .next (replied s l (freshLease (s.row l)) (frame sq 0xA0 body))
    (∀ cls expected body clipped, e.op = .put cls expected body clipped →
      (offset.toNat ≤ body.length →
        answered ([0x00, 0x01] ++ be32 (((Directory.live s.directory key).map fun p => p.2.generation).getD 0) ++
          be16 (BitVec.ofNat 16 body.length) ++ (body.drop offset.toNat).take maximum.toNat)) ∧
      (body.length < offset.toNat → answered [0x23, 0, 0, 0, 0, 0, 0, 0])) ∧
    (∀ expected, e.op = .delete expected → answered [0x40, 0x01, 0, 0, 0, 0, 0, 0]) ∧
    (∀ delta, e.op = .add delta →
      (∀ d, Directory.live s.directory key = some (.counter, d) →
        let image := readImage s.array.mem d.location.sector d.location.unit
        (offset.toNat ≤ 4 → ∀ a b c z,
          (image = .valid (.record .counter key [a, b, c, z] d.generation) ∨
            image = .valid (.copyRecord .counter key [a, b, c, z] d.generation)) →
          let sum : Int := ((a ++ b ++ c ++ z : Word).toNat : Int) + delta.toInt
          answered ([0x00, 0x01] ++ be32 d.generation ++ be16 4 ++
            ((be32 (BitVec.ofInt 32 (max 0 (min 4294967295 sum)))).drop offset.toNat).take maximum.toNat)) ∧
        (offset.toNat ≤ 4 →
          (∀ a b c z, image ≠ .valid (.record .counter key [a, b, c, z] d.generation) ∧
            image ≠ .valid (.copyRecord .counter key [a, b, c, z] d.generation)) →
          answered [0x60, 0x01, 0, 0, 0, 0, 0, 0]) ∧
        (4 < offset.toNat → answered [0x23, 0, 0, 0, 0, 0, 0, 0])) ∧
      (∀ c d, Directory.live s.directory key = some (c, d) → c ≠ .counter → answered [0x41, 0x01, 0, 0, 0, 0, 0, 0]) ∧
      (Directory.live s.directory key = none → answered [0x40, 0x01, 0, 0, 0, 0, 0, 0]))

/-- READ refused, in the order of R20's table. -/
def Obligations.ReadRefusedInOrder : Prop :=
  ∀ (l : Link) (sq maximum : Byte) (key offset : Half) (s : State), PassesFree s l sq →
    let badKey := key = 0 ∨ key = 0xFFFF
    let badMaximum := maximum = 0 ∨ 224 < maximum.toNat
    ((s.mount.mode = .mounting ∨ s.mount.mode = .formatting) →
      exec (.read l sq key offset maximum) s = .next (refusedWith s l sq 0xA0 0x11 7)) ∧
    (answersMode s.mount.mode → badKey → exec (.read l sq key offset maximum) s = .next (refusedWith s l sq 0xA0 0x22 7)) ∧
    (answersMode s.mount.mode → ¬ badKey → badMaximum →
      exec (.read l sq key offset maximum) s = .next (refusedWith s l sq 0xA0 0x23 7)) ∧
    (answersMode s.mount.mode → ¬ badKey → ¬ badMaximum →
      ((s.row l).state = .opened → ∀ x ∈ (s.row l).staging, x.key ≠ key) → (∀ e ∈ s.directory, e.key = key → e.body = .deleted) →
      exec (.read l sq key offset maximum) s = .next (refusedWith s l sq 0xA0 0x40 7))

/-- LIST (R23): the LIVE entries from the starting key on, at most the count, and the key of the first beyond them; a starting key 0000H or FFFFH
is BAD-KEY, then a count of 0 or above 16 BAD-VALUE. -/
def Obligations.ListAnswersPage : Prop :=
  ∀ (l : Link) (sq count : Byte) (start : Key) (s : State), PassesFree s l sq → answersMode s.mount.mode →
    let badKey := start = 0 ∨ start = 0xFFFF
    let badCount := count = 0 ∨ 16 < count.toNat
    let found := s.directory.filter fun e => e.body.isLive && decide (start.toNat ≤ e.key.toNat)
    let page := found.take count.toNat
    (badKey → exec (.list l sq start count) s = .next (refusedWith s l sq 0xA1 0x22 3)) ∧
    (¬ badKey → badCount → exec (.list l sq start count) s = .next (refusedWith s l sq 0xA1 0x23 3)) ∧
    (¬ badKey → ¬ badCount → exec (.list l sq start count) s = .next
      (replied s l (freshLease (s.row l)) (frame sq 0xA1
        ([0x00, BitVec.ofNat 8 page.length] ++ be16 (((found.drop count.toNat).head?.map DirEntry.key).getD 0) ++
          page.flatMap fun e =>
            match e.body with
            | .live cls n => be16 e.key ++ [cls.code] ++ be16 (BitVec.ofNat 16 n) ++ be32 e.generation
            | .deleted => []))))

/-! ### Staging -/

/-- The checks of changes against the directory. R71, R93 (the table of R2): privilege, then class, then ONCE, against the key's LIVE entry. R92: the
expected generation. R93: presence. R91: the checks of an entry in their order, and the first entry of a list that fails. R94: the first new key
that finds none of the 384 places. -/
def Obligations.ChangeChecksInOrder : Prop :=
  (∀ (d : List DirEntry) (key : Key) (cls : RecClass) (e : DirEntry),
    Directory.live d key = some (cls, e) ↔ d.find? (fun x => x.key == key) = some e ∧ ∃ n, e.body = .live cls n) ∧
  (∀ (d : List DirEntry) (p : Privilege) (key : Key) (names : Option RecClass) (isAdd : Bool), p ≠ .read →
    let live := (Directory.live d key).map Prod.fst
    let privilegeFails := p = .write ∧ (names = some .service ∨ names = some .once ∨ live = some .service)
    let classFails := ∃ c, live = some c ∧ c ≠ .once ∧ ((∃ n, names = some n ∧ n ≠ c) ∨ (isAdd = true ∧ c ≠ .counter))
    (privilegeFails → changeCheck d p key names isAdd = some .notPermitted) ∧
    (¬ privilegeFails → classFails → changeCheck d p key names isAdd = some .classMismatch) ∧
    (¬ privilegeFails → live = some .once → changeCheck d p key names isAdd = some .onceViolation) ∧
    (¬ privilegeFails → ¬ classFails → live ≠ some .once → changeCheck d p key names isAdd = none)) ∧
  (∀ (d : List DirEntry) (key : Key),
    expectedCheck d key none = none ∧
    (Directory.live d key = none → expectedCheck d key (some 0) = none ∧ ∀ g, g ≠ 0 → expectedCheck d key (some g) = some .conflict) ∧
    (∀ cls e, Directory.live d key = some (cls, e) →
      expectedCheck d key (some 0) = some .exists ∧
      ∀ g, g ≠ 0 → expectedCheck d key (some g) = if g = e.generation then none else some .conflict)) ∧
  (∀ (d : List DirEntry) (p : Privilege) (key : Key),
    let present := if Directory.live d key = none then some Result.notFound else none
    (∀ cls expected body clipped, entryCheck d p { key := key, op := .put cls expected body clipped } =
      (expectedCheck d key expected).or (changeCheck d p key (some cls) false)) ∧
    (∀ expected, entryCheck d p { key := key, op := .delete expected } =
      ((expectedCheck d key expected).or (changeCheck d p key none false)).or present) ∧
    (∀ delta, entryCheck d p { key := key, op := .add delta } = (changeCheck d p key none true).or present)) ∧
  ∀ (d : List DirEntry) (p : Privilege) (list : List StagedEntry),
    (firstFailing d p list = none ↔ ∀ e ∈ list, entryCheck d p e = none) ∧
    (∀ before e after r, list = before ++ e :: after → (∀ x ∈ before, entryCheck d p x = none) → entryCheck d p e = some r →
      firstFailing d p list = some (r, e.key)) ∧
    let fresh := (list.filter fun e => (e.op.code == 0) && d.all fun x => x.key != e.key).map StagedEntry.key
    dirFullKey d list = fresh[384 - d.length]?

/-- PUT (R69, R72, R74) and DELETE (R69, R72, R80): the entry is created at the end of the list, or replaces the key's entry in its place; or
NO-ROOM, and nothing is staged. Refused before that: a class field outside the four and a COUNTER body of another length than 4 with BAD-VALUE
(R74), then what the checks of the change give (R71). -/
def Obligations.PutAndDeleteStage : Prop :=
  ∀ (l : Link) (sq : Byte) (key : Key) (expected : Option Word) (p : Privilege) (s : State),
    PassesFree s l sq → s.mount.mode = .ready → OpenWith (s.row l) p → p ≠ .read → key ≠ 0 → key ≠ 0xFFFF →
    let r := freshLease (s.row l)
    let old := r.staging.find? fun x => x.key == key
    let listWith := fun e : StagedEntry => if old.isSome then r.staging.map fun x => if x.key = key then e else x else r.staging ++ [e]
    let place := old.isSome ∨ (r.staging.length < 16 ∧ 1 ≤ s.poolFreeSlots)
    let staged := fun (list : List StagedEntry) (kind : Byte) =>
      replied s l { r with staging := list } (frame sq kind (0x00 :: poolReply (s.setRow l { r with staging := list }) l 0))
    (∀ (code : Byte) (body : List Byte), body.length ≤ 224 →
      (3 < code.toNat → exec (.put l sq key code expected body) s = .next (refusedWith s l sq 0xB0 0x23 5)) ∧
      ∀ cls : RecClass, cls.code = code →
        (cls = .counter → body.length ≠ 4 → exec (.put l sq key code expected body) s = .next (refusedWith s l sq 0xB0 0x23 5)) ∧
        ((cls = .counter → body.length = 4) →
          (∀ x, changeCheck s.directory p key (some cls) false = some x →
            exec (.put l sq key code expected body) s = .next (refusedWith s l sq 0xB0 x.code 5)) ∧
          (changeCheck s.directory p key (some cls) false = none →
            let room := place ∧ body.length ≤ s.poolFreeBytes + (old.map StagedEntry.bytes).getD 0
            (room → exec (.put l sq key code expected body) s = .next
              (staged (listWith { key := key, op := .put cls expected body 0 }) 0xB0)) ∧
            (¬ room → exec (.put l sq key code expected body) s = .next (refusedWith s l sq 0xB0 0x50 5))))) ∧
    (∀ x, changeCheck s.directory p key none false = some x →
      exec (.delete l sq key expected) s = .next (refusedWith s l sq 0xB3 x.code 5)) ∧
    (changeCheck s.directory p key none false = none →
      (place → exec (.delete l sq key expected) s = .next (staged (listWith { key := key, op := .delete expected }) 0xB3)) ∧
      (¬ place → exec (.delete l sq key expected) s = .next (refusedWith s l sq 0xB3 0x50 5)))

/-- APPEND (R76, R77): the bytes that fit under 496 at the write pointer; the rest dropped and counted up to 65,535; NO-ROOM places nothing.
Refused before that: NOT-FOUND with no staged PUT of the key, CLASS-MISMATCH for a COUNTER, then what the checks of the change give (R71). -/
def Obligations.AppendExtendsPut : Prop :=
  ∀ (l : Link) (sq : Byte) (key : Key) (bytes : List Byte) (p : Privilege) (s : State),
    PassesFree s l sq → s.mount.mode = .ready → OpenWith (s.row l) p → p ≠ .read → key ≠ 0 → key ≠ 0xFFFF → bytes.length ≤ 224 →
    let r := freshLease (s.row l)
    let old := (s.row l).staging.find? fun x => x.key == key
    ((∀ cls expected body clipped, old ≠ some { key := key, op := .put cls expected body clipped }) →
      exec (.append l sq key bytes) s = .next (refusedWith s l sq 0xB1 0x40 3)) ∧
    ∀ (cls : RecClass) (expected : Option Word) (body : List Byte) (clipped : Nat),
      old = some { key := key, op := .put cls expected body clipped } →
      (cls = .counter → exec (.append l sq key bytes) s = .next (refusedWith s l sq 0xB1 0x41 3)) ∧
      (cls ≠ .counter → ∀ x, changeCheck s.directory p key (some cls) false = some x →
        exec (.append l sq key bytes) s = .next (refusedWith s l sq 0xB1 x.code 3)) ∧
      (cls ≠ .counter → changeCheck s.directory p key (some cls) false = none →
        let accepted := min bytes.length (496 - body.length)
        let dropped := bytes.length - accepted
        let e : StagedEntry := { key := key, op := .put cls expected (body ++ bytes.take accepted) (min 65535 (clipped + dropped)) }
        (accepted ≤ s.poolFreeBytes → exec (.append l sq key bytes) s = .next
          (replied s l { r with staging := r.staging.map fun x => if x.key = key then e else x }
            (frame sq 0xB1 ([if dropped = 0 then 0x00 else 0x01, BitVec.ofNat 8 accepted] ++
              be16 (BitVec.ofNat 16 (body.length + accepted)))))) ∧
        (s.poolFreeBytes < accepted → exec (.append l sq key bytes) s = .next
          (replied s l r (frame sq 0xB1 ([0x50, 0] ++ be16 (BitVec.ofNat 16 body.length))))))

/-- ADD (R4, R78, R79): a new entry, or NO-ROOM (R72); a sum within 32 signed bits in its place, BAD-VALUE beyond them; a staged COUNTER PUT
changed with saturation and the flag that says so; each only where the checks of the change pass (R71). -/
def Obligations.AddStagesDelta : Prop :=
  ∀ (l : Link) (sq : Byte) (key : Key) (delta : Word) (p : Privilege) (s : State),
    PassesFree s l sq → s.mount.mode = .ready → OpenWith (s.row l) p → p ≠ .read → key ≠ 0 → key ≠ 0xFFFF →
    let r := freshLease (s.row l)
    let old := r.staging.find? fun x => x.key == key
    let with' := fun op : StagedOp => { r with staging := r.staging.map fun x => if x.key = key then { key := key, op := op } else x }
    let answers := fun t : State => exec (.add l sq key delta) s = .next t
    let ok := fun (row : SessionRow) (flags : Byte) =>
      replied s l row (frame sq 0xB2 (0x00 :: poolReply (s.setRow l row) l flags))
    let refused := fun code : Byte => answers (refusedWith s l sq 0xB2 code 5)
    ((old = none ∨ ∃ d, old = some { key := key, op := .add d }) →
      ∀ x, changeCheck s.directory p key none true = some x → refused x.code) ∧
    (old = none → changeCheck s.directory p key none true = none →
      (r.staging.length < 16 ∧ 1 ≤ s.poolFreeSlots → answers (ok { r with staging := r.staging ++ [{ key := key, op := .add delta }] } 0)) ∧
      (16 ≤ r.staging.length ∨ s.poolFreeSlots = 0 → refused 0x50)) ∧
    (∀ d, old = some { key := key, op := .add d } → changeCheck s.directory p key none true = none →
      (-2147483648 ≤ d.toInt + delta.toInt ∧ d.toInt + delta.toInt ≤ 2147483647 →
        answers (ok (with' (.add (BitVec.ofInt 32 (d.toInt + delta.toInt)))) 0)) ∧
      (d.toInt + delta.toInt < -2147483648 ∨ 2147483647 < d.toInt + delta.toInt → refused 0x23)) ∧
    (∀ expected body clipped, old = some { key := key, op := .put .counter expected body clipped } → body.length = 4 →
      (∀ x, changeCheck s.directory p key (some .counter) false = some x → refused x.code) ∧
      (changeCheck s.directory p key (some .counter) false = none →
        let sum : Int := (bytesToNat body : Int) + delta.toInt
        answers (ok (with' (.put .counter expected (be32 (BitVec.ofInt 32 (max 0 (min 4294967295 sum)))) 0))
          (if sum < 0 ∨ 4294967295 < sum then 1 else 0)))) ∧
    (∀ cls expected body clipped, old = some { key := key, op := .put cls expected body clipped } → cls ≠ .counter → refused 0x41) ∧
    (∀ expected, old = some { key := key, op := .delete expected } → refused 0x40)

/-- DROP (R81), STAGED (R82; the clipped count of a DELETE's or an ADD's item is 0000H: log 44) and ABORT (R83). -/
def Obligations.DropStagedAbort : Prop :=
  ∀ (l : Link) (sq : Byte) (key : Key) (p : Privilege) (s : State),
    PassesFree s l sq → s.mount.mode = .ready → OpenWith (s.row l) p → p ≠ .read → key ≠ 0 → key ≠ 0xFFFF →
    let r := freshLease (s.row l)
    let left := { r with staging := r.staging.filter fun x => x.key != key }
    ((∃ x ∈ r.staging, x.key = key) → exec (.drop l sq key) s = .next
      (replied s l left (frame sq 0xB4 (0x00 :: poolReply (s.setRow l left) l 0)))) ∧
    ((∀ x ∈ r.staging, x.key ≠ key) → exec (.drop l sq key) s = .next (refusedWith s l sq 0xB4 0x40 5)) ∧
    exec (.staged l sq) s = .next
      (replied s l r (frame sq 0xB5 ([0x00, BitVec.ofNat 8 r.staging.length] ++ r.staging.flatMap fun x =>
        match x.op with
        | .put c expected body clipped =>
          be16 x.key ++ [0, c.code] ++ be16 (BitVec.ofNat 16 body.length) ++ be16 (BitVec.ofNat 16 clipped) ++
            [if expected.isSome then 1 else 0]
        | .delete expected => be16 x.key ++ [1, 0, 0, 0, 0, 0, if expected.isSome then 1 else 0]
        | .add _ => be16 x.key ++ [2, 0, 0, 0, 0, 0, 0]))) ∧
    exec (.abort l sq) s = .next
      (replied s l { r with staging := [] } (frame sq 0xB6 [0x00, BitVec.ofNat 8 r.staging.length]))

/-- R70: the common checks of the staging requests, in their order; a refused request stages nothing. -/
def Obligations.StagingRefusedInOrder : Prop :=
  ∀ (l : Link) (sq cls : Byte) (key : Key) (expected : Option Word) (delta : Word) (bytes : List Byte) (s : State),
    PassesFree s l sq → bytes.length ≤ 224 →
    ∀ x ∈ ([(.put l sq key cls expected bytes, 0xB0, 5, true), (.append l sq key bytes, 0xB1, 3, true),
        (.add l sq key delta, 0xB2, 5, true), (.delete l sq key expected, 0xB3, 5, true), (.drop l sq key, 0xB4, 5, true),
        (.staged l sq, 0xB5, 1, false), (.abort l sq, 0xB6, 1, false)] : List (Instr × Byte × Nat × Bool)),
      let r := s.row l
      let holds := r.state ≠ .none ∧ r.orphaned = false
      let refused := fun code : Byte => exec x.1 s = .next (refusedWith s l sq x.2.1 code x.2.2.1)
      (s.mount.mode = .mounting ∨ s.mount.mode = .formatting ∨ s.mount.mode = .unformatted → refused 0x11) ∧
      (s.mount.mode = .readOnly → refused 0x13) ∧
      (s.mount.mode = .ready → ¬ holds → refused 0x30) ∧
      (s.mount.mode = .ready → holds → r.privilege = some .read → refused 0x32) ∧
      (s.mount.mode = .ready → holds → r.privilege ≠ some .read → r.state = .committing → refused 0x10) ∧
      (s.mount.mode = .ready → holds → r.privilege ≠ some .read → r.state ≠ .committing → x.2.2.2 = true →
        (key = 0 ∨ key = 0xFFFF) → refused 0x22)

/-! ### Commit -/

/-- COMMIT accepted (R87, R88): the job at the tail of the queue (its entry position and failing key before WRITING and before its end: log 40),
the row COMMITTING with its lease at the full period, the request held; then the arbiter, which alone decides what follows at once. -/
def Obligations.CommitAccepted : Prop :=
  ∀ (l : Link) (sq : Byte) (p : Privilege) (s : State),
    PassesFree s l sq → s.mount.mode = .ready → OpenWith (s.row l) p → p ≠ .read → (∀ j ∈ s.commit.queue, j.link ≠ l) →
    (s.row l).staging ≠ [] → (∀ e ∈ (s.row l).staging, ∀ c x b n, e.op = .put c x b n → n = 0) →
    let r := freshLease (s.row l)
    let job : CommitJob :=
      { link := l, session := r.number.getD 0, state := .queued, granted := false, txn := none, position := 1, retries := 0,
        written := [], saturated := false, result := none, failingKey := 0 }
    let accepted := ((s.setQueue (s.commit.queue ++ [job])).setRow l { r with state := .committing }).setLink l
      { hunting (s.link l) with held := some { kind := .commit, sequence := sq } }
    exec (.commit l sq) s = .next accepted.settle ∧ (s.array.tenancy ≠ .none → accepted.settle = accepted)

/-- COMMIT refused, in the order of R87's table: code and failing key, the other fields zero (R108); nothing else changes but the
lease. -/
def Obligations.CommitRefusedInOrder : Prop :=
  ∀ (l : Link) (sq : Byte) (s : State), PassesFree s l sq →
    let r := s.row l
    let holds := r.state ≠ .none ∧ r.orphaned = false
    let refused := fun (code : Byte) (key : Key) => exec (.commit l sq) s = .next
      (replied s l (freshLease r) (frame sq 0xC0 (code :: be16 key ++ [0, 0, 0, 0, 0, 0])))
    (s.mount.mode = .mounting ∨ s.mount.mode = .formatting → refused 0x11 0) ∧
    (answersMode s.mount.mode → holds → r.privilege = some .read → refused 0x32 0) ∧
    (s.mount.mode = .readOnly → holds → r.privilege ≠ some .read → refused 0x13 0) ∧
    (s.mount.mode = .unformatted → holds → r.privilege ≠ some .read → refused 0x11 0) ∧
    (s.mount.mode = .ready → holds → r.privilege ≠ some .read → (∃ j ∈ s.commit.queue, j.link = l) → refused 0x10 0) ∧
    (s.mount.mode = .ready → holds → r.privilege ≠ some .read → (∀ j ∈ s.commit.queue, j.link ≠ l) →
      (r.staging = [] → refused 0x46 0) ∧
      (∀ before e after c x b n, r.staging = before ++ e :: after → e.op = .put c x b n → 0 < n →
        (∀ e' ∈ before, ∀ c' x' b' n', e'.op = .put c' x' b' n' → n' = 0) → refused 0x45 e.key))

/-- A COMMIT granted at once and refused at validation (R91 to R96, R98): the reply with code and key, the staging kept, the session OPEN
with its lease at the full period, no transaction number taken, the array free again, nothing written; where no low-water cycle is wanted
(R116). -/
def Obligations.CommitRefusedAtValidation : Prop :=
  ∀ (l : Link) (sq : Byte) (p : Privilege) (s : State),
    PassesFree s l sq → s.mount.mode = .ready → OpenWith (s.row l) p → p ≠ .read → Quiet s → s.array.tenancy = .none →
    (4 < s.erasedCount ∨ ∀ k, (s.sec k).state = .full → (s.sec k).waste = 0 ∧ (s.sec k).retirePending = false) →
    (s.row l).staging ≠ [] → (∀ e ∈ (s.row l).staging, ∀ c x b n, e.op = .put c x b n → n = 0) →
    let list := (s.row l).staging
    let sizes := list.map StagedEntry.units ++ [1]
    let refused := fun (code : Byte) (key : Key) => exec (.commit l sq) s = .next
      (replied s l (freshLease (s.row l)) (frame sq 0xC0 (code :: be16 key ++ [0, 0, 0, 0, 0, 0])))
    (∀ r key, firstFailing s.directory p list = some (r, key) → refused r.code key) ∧
    (firstFailing s.directory p list = none → ∀ key, dirFullKey s.directory list = some key → refused 0x51 key) ∧
    (firstFailing s.directory p list = none → dirFullKey s.directory list = none →
      (s.commit.nextTxn = 0xFFFFFFFF → refused 0x13 0) ∧
      (s.commit.nextTxn ≠ 0xFFFFFFFF → s.fits sizes = false → s.room < sizes.sum → refused 0x52 0))

/-- A COMMIT granted at once whose images fit (R97, R98, R100 to R103): it takes the next transaction number, which rises by 1, and the image of its
first entry, a PUT, an ADD or a DELETE, is placed (the failing key before the job's end: log 40); an ADD whose committed value does not read back
ends the job with MEDIA-FAULT, its number consumed (R102, R105), and the arbiter goes on with the grants its bound leaves (log 13). -/
def Obligations.CommitBeginsWriting : Prop :=
  ∀ (l : Link) (sq : Byte) (p : Privilege) (e : StagedEntry) (rest : List StagedEntry) (s : State),
    PassesFree s l sq → s.mount.mode = .ready → OpenWith (s.row l) p → p ≠ .read → Quiet s → s.array.tenancy = .none →
    (s.row l).staging = e :: rest → (∀ x ∈ e :: rest, ∀ c x' b n, x.op = .put c x' b n → n = 0) →
    firstFailing s.directory p (e :: rest) = none → dirFullKey s.directory (e :: rest) = none →
    s.commit.nextTxn ≠ 0xFFFFFFFF → s.fits ((e :: rest).map StagedEntry.units ++ [1]) = true →
    let r := freshLease (s.row l)
    let T := s.commit.nextTxn
    let job := fun saturated : Bool => ({ link := l, session := r.number.getD 0, state := .writing, granted := true, txn := some T
                                          position := 1, retries := 0, written := [], saturated := saturated, result := none
                                          failingKey := 0 } : CommitJob)
    let begun := fun saturated : Bool =>
      (((((s.setNextTxn (T + 1)).setQueue [job saturated]).setRow l { r with state := .committing }).setLink l
        { hunting (s.link l) with held := some { kind := .commit, sequence := sq } }).setTenancy .commit)
    (∀ img saturated t, FormsImage s T e img saturated → Placed (begun saturated) img t → exec (.commit l sq) s = .next t) ∧
    (∀ delta, e.op = .add delta → (∀ value, ¬ CounterReads s e.key value) →
      exec (.commit l sq) s = .next ((jobEnded (begun false) (job false) 0x60 e.key 0 false).settleFor 511))

/-- PROGRAM_COMPLETE DONE for an image of a commit that is no MARK (R31, R101 to R103, R105, R106): the image's bytes (their layout: log 8) stand in
its units, the sector's next free unit has passed them, the place joins the written images, and the image of the next entry, or after the
last entry the MARK, is placed. What no longer fits, and an ADD whose committed value does not read back, end the job with MEDIA-FAULT, its
written images dead waste. In a part that has stopped (R112; a job that writes beside an owed RESTART: log 46) nothing more is placed: the job ends
with HALTED, its written images, this one too, dead waste. -/
def Obligations.ProgramDoneGoesOn : Prop :=
  ∀ (img : Image) (loc : Location) (j : CommitJob) (others : List CommitJob) (ok : Bool) (s : State),
    s.running = true → s.array.tenancy = .commit → s.array.op = some (.image img loc) →
    (∀ n c, img ≠ .mark n c) → s.commit.queue = j :: others → (∀ x ∈ others, x.link ≠ j.link) → j.state = .writing →
    let list := (s.row j.link).staging
    let T := j.txn.getD 0
    let u := (s.clearOp.setMem
        (Memory.writeBytes s.array.mem (loc.sector.val * 4096 + loc.unit * 16) img.bytes)).setSec loc.sector
      { s.sec loc.sector with nextFree := (s.sec loc.sector).nextFree + img.units }
    let next := fun saturated : Bool => ({ j with written := j.written ++ [{ location := loc, size := img.units }], retries := 0
                                                  position := j.position + 1, saturated := j.saturated || saturated } : CommitJob)
    let on := fun saturated : Bool => u.setQueue (next saturated :: others)
    let restFits := u.fits ((list.map StagedEntry.units ++ [1]).drop j.position) = true
    let faults := fun key : Key =>
      exec (.programComplete .done ok) s = .next (jobEnded (withWaste u (next false).written) (next false) 0x60 key 0 false).settle
    (s.stopped = false →
      (∀ e img' saturated, list[j.position]? = some e → FormsImage u T e img' saturated →
        (restFits → ∀ t, Placed (on saturated) img' t → exec (.programComplete .done ok) s = .next t) ∧ (¬ restFits → faults e.key)) ∧
      (∀ e delta, list[j.position]? = some e → e.op = .add delta → (∀ value, ¬ CounterReads u e.key value) → faults e.key) ∧
      (list.length ≤ j.position →
        (restFits → ∀ t, Placed (on false) (.mark T list.length) t → exec (.programComplete .done ok) s = .next t) ∧
        (¬ restFits → faults 0))) ∧
    (s.stopped = true → exec (.programComplete .done ok) s = .next
      (jobEnded (withWaste u (next false).written) (next false) 0x12 0 0 false))

/-- PROGRAM_COMPLETE with a failure for an image of a commit (R32, R103 to R105): the span is dead and the sector suspect or closed with
retire-pending (`Safety.failedSpan`; unknown bytes: log 9). A first or second failure places the same image again; a third, or a rest that no
longer fits, ends the job with MEDIA-FAULT and the image's key, its written images dead waste. In a part that has stopped (R112; a job that writes
beside an owed RESTART: log 46) there is no retry: the job, its MARK failed or another image, ends with HALTED. -/
def Obligations.ProgramFailedRetries : Prop :=
  ∀ (img : Image) (loc : Location) (j : CommitJob) (others : List CommitJob) (outcome : OpOutcome) (ok : Bool) (s : State),
    s.running = true → s.array.tenancy = .commit → s.array.op = some (.image img loc) → outcome ≠ .done →
    s.commit.queue = j :: others → (∀ x ∈ others, x.link ≠ j.link) → j.state = .writing →
    let u := failedSpan s img loc ok
    let restFits := u.fits (((s.row j.link).staging.map StagedEntry.units ++ [1]).drop (j.position - 1)) = true
    let faults := exec (.programComplete outcome ok) s = .next
      (jobEnded (withWaste u j.written) j 0x60 (img.key?.getD 0) 0 false).settle
    (s.stopped = false →
      (j.retries < 2 → restFits → ∀ t, Placed (u.setQueue ({ j with retries := j.retries + 1 } :: others)) img t →
        exec (.programComplete outcome ok) s = .next t) ∧
      (j.retries < 2 → ¬ restFits → faults) ∧ (2 ≤ j.retries → faults)) ∧
    (s.stopped = true → exec (.programComplete outcome ok) s = .next (jobEnded (withWaste u j.written) j 0x12 0 0 false))

/-- PROGRAM_COMPLETE DONE for the MARK (R107, R108, R84, R119; the MARK's bytes: log 8), whatever else waits: the entries are applied in list order
with the places of their images; KEY-CHANGED goes to the other link for each key of the transaction that its session watches, in list order
(R61); the sectors of the transaction are joined; the job ends with OK, for an orphaned row with COMMIT-RESULT (R64, R110), in HALTED with the
row ended (R112); then the arbiter goes on. With no other job, an idle reclaimer and no FORMAT it grants nothing. -/
def Obligations.MarkDoneEndsCommit : Prop :=
  ∀ (n : Word) (count : Nat) (loc : Location) (j : CommitJob) (others : List CommitJob) (ok : Bool) (s : State),
    s.running = true → s.array.tenancy = .commit → s.array.op = some (.image (.mark n count) loc) → s.commit.queue = j :: others →
    (∀ x ∈ others, x.link ≠ j.link) → j.state = .writing →
    let list := (s.row j.link).staging
    let T := j.txn.getD 0
    let places := j.written ++ [{ location := loc, size := 1 }]
    let programmed := (s.clearOp.setMem
        (Memory.writeBytes s.array.mem (loc.sector.val * 4096 + loc.unit * 16) (Image.mark n count).bytes)).setSec loc.sector
      { s.sec loc.sector with nextFree := (s.sec loc.sector).nextFree + 1 }
    let applied := (list.zip places).foldl (fun u x =>
      match x.1.op with
      | .put cls _ body _ => u.takeImage x.1.key (.live cls body.length) T x.2.location
      | .add _ => u.takeImage x.1.key (.live .counter 4) T x.2.location
      | .delete _ => u.takeImage x.1.key .deleted T x.2.location) programmed
    let other := s.row j.link.other
    let watched := if other.state ≠ .none ∧ other.orphaned = false then (list.map StagedEntry.key).filter (· ∈ other.watch) else []
    let told := watched.foldl (fun u key => u.offerNotice j.link.other .keyChanged key T) applied
    let ended := jobEnded (withJoins told (places.map fun p => p.location.sector)) j 0x00 0 list.length j.saturated
    exec (.programComplete .done ok) s = .next ended.settle ∧
    (others = [] → ended.reclaim.state = .idle → s.mount.format = none → ended.settle = ended)

/-- What the apply of one image makes of the directory (R12, R14, R15): a new entry, or the key's entry with the image's state, generation
and location; the superseded image counted stale, and waste of its sector, where that is ACTIVE, FULL or VICTIM; no other key changes. -/
def Obligations.ApplyTakesImage : Prop :=
  ∀ (key : Key) (body : EntryBody) (g : Word) (loc : Location) (s : State),
    let t := s.takeImage key body g loc
    (∀ k, k ≠ key → Directory.find t.directory k = Directory.find s.directory k) ∧
    (Directory.find s.directory key = none →
      t = s.setDirectory t.directory ∧
      Directory.find t.directory key =
        some { key := key, body := body, generation := g, location := loc, stale := 0, dropPending := false }) ∧
    (∀ e, Directory.find s.directory key = some e →
      let old := s.sec e.location.sector
      let counted := old.state = .active ∨ old.state = .full ∨ old.state = .victim
      let size := match e.body with
        | .live _ n => 1 + (n + 15) / 16
        | .deleted => 1
      Directory.find t.directory key =
        some { key := key, body := body, generation := g, location := loc, dropPending := false
               stale := if counted then e.stale + 1 else e.stale } ∧
      t = (if counted then s.setSec e.location.sector { old with waste := old.waste + size } else s).setDirectory t.directory)

/-- The space check of a granted job whose other checks pass (R97 to R99): the sizes of the images, MARK last; the packing from the free units of the
ACTIVE sector, a fresh sector of 254 units for each image that does not fit; what fits without the last 2 ERASED sectors; the room. A commit
that does not fit now but could with the waste recovered waits: the array is released, the reclaimer is forced and, if it was at rest, claims. -/
def Obligations.CommitWaitsForSpace : Prop :=
  (∀ e : StagedEntry, e.units =
    match e.op with
    | .put cls _ body _ => if cls = .counter then 2 else 1 + (body.length + 15) / 16
    | .add _ => 2
    | .delete _ => 1) ∧
  (∀ (s : State) (sizes : List Nat),
    let free := match s.activeSector with
      | some i => 256 - (s.sec i).nextFree
      | none => 0
    let packed := sizes.foldl (fun (a : Nat × Nat) n => if n ≤ a.1 then (a.1 - n, a.2) else (254 - n, a.2 + 1)) (free, 0)
    (s.fits sizes = true ↔ packed.2 ≤ s.erasedCount - 2) ∧
    s.room = free + 254 * (s.erasedCount - 2) +
      ((List.finRange 48).map fun i => if (s.sec i).state = .active ∨ (s.sec i).state = .full then (s.sec i).waste else 0).sum) ∧
  ∀ (j : CommitJob) (others : List CommitJob) (p : Privilege) (s : State),
    s.mount.mode = .ready → s.commit.queue = j :: others → (∀ x ∈ others, x.link ≠ j.link) →
    (s.row j.link).privilege = some p →
    let list := (s.row j.link).staging
    let sizes := list.map StagedEntry.units ++ [1]
    firstFailing s.directory p list = none → dirFullKey s.directory list = none → s.commit.nextTxn ≠ 0xFFFFFFFF →
    s.fits sizes = false → sizes.sum ≤ s.room →
    s.grantCommit j =
      (((s.setQueue ({ j with state := .waitingSpace, granted := true } :: others)).setReclaim
        { s.reclaim with forced := true
                         state := if s.reclaim.state = .idle then .claimMove else s.reclaim.state }).setTenancy .none)

/-! ### The array -/

/-- ACTIVATION_RECORD_COMPLETE (R40). DONE: the record with the sequence and the retired set (its layout: log 8) stands in unit 1, the sector is
ACTIVE with that sequence, the set recorded, and the image is being programmed at unit 2. VERIFY-FAIL or DEADLINE: unit 1 is in an unknown state
(free bytes: log 9), the sector is retired with reason 03H (R42), and the record of the next ERASED sector (R39) is begun for the same image, with
the new sequence and set; with none left the writer is told (R31): a job ends with MEDIA-FAULT and the image's key (R103, R105), a move phase ends
early (R130). The next sequence rises in each. In a part that has stopped nothing is begun: a job ends with HALTED (R112; beside an owed RESTART:
log 46), a move phase stops (R134, R153, log 26). -/
def Obligations.ActivationRecordEnds : Prop :=
  ∀ (i : Sector) (img : Image) (outcome : OpOutcome) (s : State),
    s.running = true → s.array.tenancy ≠ .none → s.array.op = some (.activation i img) →
    let active := (((s.clearOp.setMem (Memory.writeBytes s.array.mem (i.val * 4096 + 16)
      (activationBytes s.array.nextSeq s.array.retiredSet))).setSec i
        { s.sec i with state := .active, sequence := some s.array.nextSeq, nextFree := 2 }).setRetired s.array.retiredSet true).setNextSeq
      (s.array.nextSeq + 1)
    let failed := ((s.clearOp.setNextSeq (s.array.nextSeq + 1)).scribble (i.val * 4096 + 16) 16).retire i .activationFailed
    let ends := fun (o : OpOutcome) (t : State) => exec (.activationRecordComplete o) s = .next t
    let jobEnds := fun (o : OpOutcome) (u : State) (code : Byte) (key : Key) =>
      ∀ j others, s.array.tenancy = .commit → s.commit.queue = j :: others → (∀ x ∈ others, x.link ≠ j.link) → j.state = .writing →
        ends o (jobEnded (withWaste u j.written) j code key 0 false).settle
    let stops := fun (o : OpOutcome) (u : State) => jobEnds o u 0x12 0 ∧ (s.array.tenancy = .move → ends o (moveStopped u).settle)
    (s.stopped = false →
      ends .done (active.startOp (.image img { sector := i, unit := 2 })) ∧
      (outcome ≠ .done →
        (∀ k, failed.chooseErased = some k → ends outcome (failed.startOp (.activation k img))) ∧
        (failed.chooseErased = none →
          jobEnds outcome failed 0x60 (img.key?.getD 0) ∧
          ∀ v, s.array.tenancy = .move → s.reclaim.victim = some v → ends outcome (failed.moveEndsEarly v false).settle))) ∧
    (s.stopped = true → stops .done active ∧ (outcome ≠ .done → stops outcome failed))

/-- The erase claim granted (R17, R131): every entry of the victim whose drop is pending is removed; a retire-pending victim is retired with
reason 04H, a worn one with 05H, and the cycle ends; otherwise its erase begins. ERASE_COMPLETE DONE (R33, R41): the count rises by 1 (with a WEAR
notice at 90,000), the sector reads blank, and its erase record is being programmed. ERASE_RECORD_COMPLETE DONE at the end of a reclaim cycle
(R26, R33, R118, R132): the record with the current epoch and the count (its layout: log 8) stands in unit 0, the row is ERASED with that count,
the joins to the sector are cleared and the cycle ends. -/
def Obligations.EraseGrantedAndDone : Prop :=
  ∀ (i : Sector) (s : State),
    (let granted := ((s.setDirectory (s.directory.filter fun e => !(e.dropPending && e.location.sector == i))).setTenancy .erase).setReclaim
      { s.reclaim with state := .erasing }
    ((s.sec i).retirePending = true → s.grantErase i = cycleEnded (withoutJoins (granted.retire i .retirePending) i)) ∧
    ((s.sec i).retirePending = false → 100000 ≤ (s.sec i).eraseCount →
      s.grantErase i = cycleEnded (withoutJoins (granted.retire i .worn) i)) ∧
    ((s.sec i).retirePending = false → (s.sec i).eraseCount < 100000 →
      s.grantErase i = (granted.setSec i { s.sec i with state := .erasing }).startOp (.erase i))) ∧
    (s.running = true → s.array.tenancy ≠ .none → s.array.op = some (.erase i) →
      let counted := s.setSec i { s.sec i with eraseCount := (s.sec i).eraseCount + 1 }
      let told := if (s.sec i).eraseCount = 89999 then counted.offerBoth .wear (BitVec.ofNat 16 i.val) 90000 else counted
      exec (.eraseComplete .done) s = .next
        ((told.setMem (s.array.mem.filter fun c => decide (c.1 < i.val * 4096) || decide (i.val * 4096 + 4096 ≤ c.1))).startOp
          (.eraseRecord i))) ∧
    (s.running = true → s.array.op = some (.eraseRecord i) → s.array.tenancy = .erase →
      exec (.eraseRecordComplete .done) s = .next
        (cycleEnded (withoutJoins
          ((s.clearOp.setMem (Memory.writeBytes s.array.mem (i.val * 4096)
            (eraseRecordBytes (s.array.epoch.getD 0) (s.sec i).eraseCount))).setSec i
          { state := .erased, eraseCount := (s.sec i).eraseCount, sequence := none, nextFree := 2, waste := 0, suspect := false,
            retirePending := false }) i)).settle)

/-- Retirement (R42 to R45): the row RETIRED with waste 0 and its other fields as they stood, every other row as it was, the set with the
sector and unrecorded, WEAR with reason and count on both links, and READY becomes READ-ONLY, with STORE-MODE, exactly where fewer than 6
sectors are left. ERASE_COMPLETE or ERASE_RECORD_COMPLETE with a failure in a reclaim cycle (R33, R41, R132) retires the sector with reason 01H or
02H, its count raised at the end of the erase step, its units in an unknown state (free bytes, log 9), and the cycle ends. -/
def Obligations.FailureRetiresSector : Prop :=
  (∀ (i : Sector) (reason : WearReason) (s : State),
    let t := s.retire i reason
    let told := s.offerBoth .wear (BitVec.ofNat 16 i.val) (reason.code ++ BitVec.ofNat 24 (s.sec i).eraseCount)
    let drops := s.mount.mode = .ready ∧ t.standing < 6
    t.sec i = { s.sec i with state := .retired, waste := 0 } ∧ (∀ k, k ≠ i → t.sec k = s.sec k) ∧
    t.array.retiredSet = s.array.retiredSet ||| (1#48 <<< i.val) ∧ t.array.recorded = false ∧ t.array.mem = s.array.mem ∧
    t.mount.mode = (if drops then .readOnly else s.mount.mode) ∧
    t.notices = (if drops then told.offerBoth .storeMode 0 2 else told).notices ∧
    (∀ k, (Directory.find t.directory k).map DirEntry.location = (Directory.find s.directory k).map DirEntry.location) ∧
    t.links = s.links ∧ t.sessions = s.sessions) ∧
  [WearReason.reached, .eraseFailed, .eraseRecordFailed, .activationFailed, .retirePending, .worn, .scan].map WearReason.code =
    [0, 1, 2, 3, 4, 5, 6] ∧
  ∀ (i : Sector) (outcome : OpOutcome) (s : State), s.running = true → s.array.tenancy = .erase → outcome ≠ .done →
    (s.array.op = some (.erase i) →
      let counted := s.clearOp.setSec i { s.sec i with eraseCount := (s.sec i).eraseCount + 1 }
      let told := if (s.sec i).eraseCount = 89999 then counted.offerBoth .wear (BitVec.ofNat 16 i.val) 90000 else counted
      exec (.eraseComplete outcome) s = .next
        (cycleEnded (withoutJoins ((told.retire i .eraseFailed).scribble (i.val * 4096) 4096) i)).settle) ∧
    (s.array.op = some (.eraseRecord i) →
      exec (.eraseRecordComplete outcome) s = .next
        (cycleEnded (withoutJoins ((s.clearOp.retire i .eraseRecordFailed).scribble (i.val * 4096) 16) i)).settle)

/-- OPERATION_DEADLINE (R30): the operation in flight, whatever it is, ends as its own completion with outcome DEADLINE; with none in flight
nothing changes. -/
def Obligations.DeadlineEndsOperation : Prop :=
  ∀ (ok : Bool) (s : State), s.running = true →
    let ends := fun c : Instr => ∃ t, exec c s = .next t ∧ exec (.operationDeadline ok) s = .next t
    (∀ img loc, s.array.op = some (.image img loc) → ends (.programComplete .deadline ok)) ∧
    (∀ i img, s.array.op = some (.activation i img) → ends (.activationRecordComplete .deadline)) ∧
    (∀ i, s.array.op = some (.erase i) → ends (.eraseComplete .deadline)) ∧
    (∀ i, s.array.op = some (.eraseRecord i) → ends (.eraseRecordComplete .deadline)) ∧
    (s.array.op = none → exec (.operationDeadline ok) s = .next s)

/-! ### The move phase -/

/-- The move phase: its begin at the grant (R123), its walk of the victim unit by unit (R124 to R126), the open transaction and the stale
tally it keeps (R127), and the image that a COPY is (R125). -/
def Obligations.MoveWalks : Prop :=
  (∀ (v : Sector) (s : State),
    let counter := s.reclaim.rotation + 1
    let free := match s.activeSector with
      | some i => 256 - (s.sec i).nextFree
      | none => 0
    let held := s.setTenancy .move
    held.chooseVictim (counter == 32) 49 [] = some v →
      (254 - (s.sec v).waste ≤ free + 254 * s.erasedCount →
        s.grantMove = State.walk v 257 ((held.setSec v { s.sec v with state := .victim }).setReclaim
          { s.reclaim with state := .moving, victim := some v, forced := false, requested := false
                           rotation := if counter = 32 then 0 else counter
                           openTxn := none, tally := [], relocated := [], walkUnit := 2, copyFailures := 0 })) ∧
      (free + 254 * s.erasedCount < 254 - (s.sec v).waste → s.grantMove = held.noCycle s.reclaim.rotation)) ∧
  (∀ (v : Sector) (n : Nat) (s : State),
    let w := s.reclaim.walkUnit
    let loc : Location := { sector := v, unit := w }
    let after := State.walk v (n + 1) s
    let ends := if ∃ e ∈ s.directory, e.dropPending = false ∧ e.location.sector = v ∧ w ≤ e.location.unit then s.moveEndsEarly v true
                else s.victimMoved v
    (256 ≤ w → after = s.victimMoved v) ∧
    (w < 256 → match readImage s.array.mem v w with
      | .fill => after = State.walk v n (s.setReclaim { s.reclaim with walkUnit := w + 1 })
      | .blank => after = ends
      | .invalid => after = ends
      | .valid img =>
        let track := trackImage s.directory loc img s.reclaim.openTxn s.reclaim.tally
        let tracked := s.setReclaim { s.reclaim with openTxn := track.1, tally := track.2 }
        let passed := s.setReclaim { s.reclaim with openTxn := track.1, tally := track.2, walkUnit := w + img.units }
        let isRecord := (∃ c k b g, img = .record c k b g) ∨ ∃ c k b g, img = .copyRecord c k b g
        ((∀ key e, img.key? = some key → Directory.find s.directory key = some e → e.location ≠ loc) → after = State.walk v n passed) ∧
        ∀ key e, img.key? = some key → Directory.find s.directory key = some e → e.location = loc →
          let agrees := e.generation = img.number ∧ (isRecord ↔ e.body ≠ .deleted)
          let drops := e.body = .deleted ∧ e.stale = 0 ∧ s.array.recorded = true
          (¬ agrees → after = s.moveEndsEarly v true) ∧
          (agrees → drops → after = State.walk v n
            (passed.setDirectory (s.directory.map fun x => if x.key = key then { x with dropPending := true } else x))) ∧
          (agrees → ¬ drops →
            (∀ t, Placed tracked img.copyOf t → after = t) ∧
            ((∀ k, (s.sec k).state ≠ .erased) →
              (∀ i, s.activeSector = some i → 256 - (s.sec i).nextFree < img.copyOf.units →
                after = (withClosed tracked i).moveEndsEarly v false) ∧
              (s.activeSector = none → after = tracked.moveEndsEarly v false))))) ∧
  (∀ (d : List DirEntry) (loc : Location) (img : Image) (o : Option OpenTxn) (tally : List TallyItem),
    let tracked := trackImage d loc img o tally
    let current := fun key : Key => ∃ e, Directory.find d key = some e ∧ e.location = loc
    let place := fun key : Key => ({ key := key, place := { location := loc, size := img.units } } : KeyedPlace)
    (∀ n count, img = .mark n count →
      (∀ open', o = some open' → open'.number = n → tracked = (none, open'.images.foldl (fun y p => addTally y p.key) tally)) ∧
      ((∀ open', o = some open' → open'.number ≠ n) → tracked = (none, tally))) ∧
    ∀ key, img.key? = some key →
      ((∃ c b g, img = .copyRecord c key b g) ∨ (∃ g, img = .copyVoid key g) →
        (current key → tracked = (none, tally)) ∧ (¬ current key → tracked = (none, addTally tally key))) ∧
      ((∃ c b g, img = .record c key b g) ∨ (∃ g, img = .void key g) →
        (∀ open', o = some open' → open'.number = img.number →
          (current key → tracked = (o, tally)) ∧
          (¬ current key → tracked = (some { open' with images := open'.images ++ [place key] }, tally))) ∧
        ((∀ open', o = some open' → open'.number ≠ img.number) →
          (current key → tracked = (some { number := img.number, images := [] }, tally)) ∧
          (¬ current key → tracked = (some { number := img.number, images := [place key] }, tally))))) ∧
  (∀ (tally : List TallyItem) (key x : Key),
    let count := fun l : List TallyItem => ((l.find? fun i => i.key == x).map TallyItem.count).getD 0
    count (addTally tally key) = count tally + if x = key then 1 else 0) ∧
  ∀ (c : RecClass) (key : Key) (b : List Byte) (g : Word),
    (Image.record c key b g).copyOf = .copyRecord c key b g ∧ (Image.copyRecord c key b g).copyOf = .copyRecord c key b g ∧
    (Image.void key g).copyOf = .copyVoid key g ∧ (Image.copyVoid key g).copyOf = .copyVoid key g

/-- The ends of COPY programs and of the move phase. DONE (R16, R125): the bytes (log 8) stand, the entry points at the copy, the original joins the
relocated list, and the walk goes on. A failure (R32, R129): the same COPY is placed again; a third marks the sector retire-pending, closing an
ACTIVE one, and the phase ends early. A part that has stopped starts nothing further (R134; the victim field: log 26). The normal end (R11, R127,
R128): MOVED, its stale images released, the erase claimed. The early end (R130): FULL again, the relocated originals stale, the marks cleared,
barred on a read fault, the cycle ended. A grant that gives no cycle (R122; the waiting job ends before the tenancy: log 16). The bytes of a failed
fill: log 9. -/
def Obligations.MovePhaseEnds : Prop :=
  (∀ (img : Image) (loc : Location) (v : Sector) (outcome : OpOutcome) (ok : Bool) (s : State),
    s.running = true → s.array.tenancy = .move → s.array.op = some (.image img loc) → s.reclaim.victim = some v →
    let key := img.key?.getD 0
    let programmed := (s.clearOp.setMem
        (Memory.writeBytes s.array.mem (loc.sector.val * 4096 + loc.unit * 16) img.bytes)).setSec loc.sector
      { s.sec loc.sector with nextFree := (s.sec loc.sector).nextFree + img.units }
    let relocated := programmed.setDirectory (s.directory.map fun e => if e.key = key then { e with location := loc } else e)
    let failed := failedSpan s img loc ok
    let i := loc.sector
    let again := failed.setReclaim { s.reclaim with copyFailures := s.reclaim.copyFailures + 1 }
    let marked := if (again.sec i).state = .active then
        again.setSec i { again.sec i with state := .full, waste := (again.sec i).waste + (256 - (again.sec i).nextFree), nextFree := 256
                                          retirePending := true }
      else again.setSec i { again.sec i with retirePending := true }
    (s.stopped = false → exec (.programComplete .done ok) s = .next
      (State.walk v 257 (relocated.setReclaim { s.reclaim with
        relocated := s.reclaim.relocated ++
          [{ key := key, place := { location := { sector := v, unit := s.reclaim.walkUnit }, size := img.units } }]
        copyFailures := 0, walkUnit := s.reclaim.walkUnit + img.units })).settle) ∧
    (s.stopped = true → exec (.programComplete .done ok) s = .next (moveStopped relocated).settle) ∧
    (s.stopped = true → outcome ≠ .done → exec (.programComplete outcome ok) s = .next (moveStopped failed).settle) ∧
    (s.stopped = false → outcome ≠ .done → s.reclaim.copyFailures < 2 → ∀ t, Placed again img t →
      exec (.programComplete outcome ok) s = .next t) ∧
    (s.stopped = false → outcome ≠ .done → 2 ≤ s.reclaim.copyFailures →
      exec (.programComplete outcome ok) s = .next (marked.moveEndsEarly v false).settle)) ∧
  (∀ (v : Sector) (s : State),
    let joined := ∃ k : Sector, s.reclaim.span[k.val] = some v
    let tally := match s.reclaim.openTxn with
      | some o => if joined then o.images.foldl (fun (y : List TallyItem) (p : KeyedPlace) => addTally y p.key) s.reclaim.tally
          else s.reclaim.tally
      | none => s.reclaim.tally
    let released := tally.foldl (fun (d : List DirEntry) (x : TallyItem) =>
      d.map fun e => if e.key = x.key ∧ x.count ≤ e.stale then { e with stale := e.stale - x.count } else e) s.directory
    s.victimMoved v = (((s.setSec v { s.sec v with state := .moved, waste := (s.sec v).nextFree - 2 }).setDirectory released).setReclaim
      { s.reclaim with state := .claimErase, openTxn := none, tally := [], relocated := [] }).setTenancy .none) ∧
  (∀ (v : Sector) (readFault : Bool) (s : State),
    let back := s.reclaim.relocated
    let counted := back.foldl (fun (d : List DirEntry) (p : KeyedPlace) =>
      d.map fun e => if e.key = p.key then { e with stale := e.stale + 1 } else e) s.directory
    let row := { s.sec v with state := .full, nextFree := 256
                              waste := (s.sec v).waste + (back.map fun p => p.place.size).sum }
    s.moveEndsEarly v readFault = cycleEnded (((s.setSec v row).setDirectory
      (counted.map fun e => if e.location.sector = v then { e with dropPending := false } else e)).setReclaim
      { s.reclaim with barred := if readFault then s.reclaim.barred ++ [v] else s.reclaim.barred })) ∧
  ∀ (rotation : Nat) (s : State),
    let rest := s.setReclaim { s.reclaim with state := .idle, forced := false, requested := false, rotation := rotation }
    (∀ j others, s.commit.queue = j :: others → s.reclaim.forced = true → j.state = .waitingSpace →
      s.noCycle rotation = jobEnded rest j 0x52 0 0 false) ∧
    ((s.reclaim.forced = false ∨ s.headWaiting = false) → s.noCycle rotation = rest.setTenancy .none)

/-- The sector to activate (R39): ERASED, of the lowest erase count, and of those the lowest number; none only where none is ERASED. The sector
that the four steps of R120 take, of the candidates (FULL, not barred, not set aside): retire-pending, the lowest number; in a rotation cycle the
lowest erase count and of those the oldest; the most waste and of those the oldest; with requested set as in a rotation cycle. The victim (R121) is
the first sector of its chain of joins, whatever its own fields; where that is barred the sector taken is set aside and the steps are taken again
(`Safety.VictimChosen`). With no victim, a waiting head and waste in the ACTIVE sector that sector is closed and the choice made once more, the
rotation counter raised once; with none then, or without room for its live units, there is no cycle (R122, R123). -/
def Obligations.SectorsChosen : Prop :=
  (∀ s : State,
    (∀ i, s.chooseErased = some i →
      (s.sec i).state = .erased ∧
      ∀ k, (s.sec k).state = .erased →
        (s.sec i).eraseCount < (s.sec k).eraseCount ∨ ((s.sec i).eraseCount = (s.sec k).eraseCount ∧ i ≤ k)) ∧
    (s.chooseErased = none → ∀ k, (s.sec k).state ≠ .erased)) ∧
  (∀ (s : State) (rotates : Bool) (aside : List Sector),
    let candidate := fun k : Sector => (s.sec k).state = .full ∧ k ∉ s.reclaim.barred ∧ k ∉ aside
    let leastErased := fun i : Sector => ∀ k, candidate k →
      (s.sec i).eraseCount < (s.sec k).eraseCount ∨ ((s.sec i).eraseCount = (s.sec k).eraseCount ∧ s.sequenceOf i ≤ s.sequenceOf k)
    let pending := ∃ k, candidate k ∧ (s.sec k).retirePending = true
    let wasted := ∃ k, candidate k ∧ 0 < (s.sec k).waste
    (s.chooseStep rotates aside = none ↔
      ¬ pending ∧ ¬ wasted ∧ (rotates = true ∨ s.reclaim.requested = true → ∀ k, ¬ candidate k)) ∧
    ∀ i, s.chooseStep rotates aside = some i →
      candidate i ∧
      (pending → (s.sec i).retirePending = true ∧ ∀ k, candidate k → (s.sec k).retirePending = true → i ≤ k) ∧
      (¬ pending → rotates = true → leastErased i) ∧
      (¬ pending → rotates = false → wasted → 0 < (s.sec i).waste ∧ ∀ k, candidate k →
        (s.sec k).waste < (s.sec i).waste ∨ ((s.sec k).waste = (s.sec i).waste ∧ s.sequenceOf i ≤ s.sequenceOf k)) ∧
      (¬ pending → rotates = false → ¬ wasted → s.reclaim.requested = true ∧ leastErased i)) ∧
  (∀ (s : State) (i r : Sector), ChainRoot s i r → s.chainRoot 48 i = r) ∧
  (∀ (s : State) (rotates : Bool), VictimChosen s rotates [] (s.chooseVictim rotates 49 [])) ∧
  ∀ s : State,
    let rotates := s.reclaim.rotation + 1 == 32
    let held := s.setTenancy .move
    held.chooseVictim rotates 49 [] = none →
      ((s.headWaiting = false ∨ ∀ i, s.activeSector = some i → (s.sec i).waste = 0) → s.grantMove = held.noCycle s.reclaim.rotation) ∧
      ∀ i, s.headWaiting = true → s.activeSector = some i → 0 < (s.sec i).waste →
        let closed := withClosed held i
        (closed.chooseVictim rotates 49 [] = none → s.grantMove = closed.noCycle s.reclaim.rotation) ∧
        ∀ v, closed.chooseVictim rotates 49 [] = some v →
          let free := match closed.activeSector with
            | some k => 256 - (closed.sec k).nextFree
            | none => 0
          (254 - (closed.sec v).waste ≤ free + 254 * closed.erasedCount →
            s.grantMove = State.walk v 257 ((closed.setSec v { closed.sec v with state := .victim }).setReclaim
              { s.reclaim with state := .moving, victim := some v, forced := false, requested := false
                               rotation := if s.reclaim.rotation + 1 = 32 then 0 else s.reclaim.rotation + 1
                               openTxn := none, tally := [], relocated := [], walkUnit := 2, copyFailures := 0 })) ∧
          (free + 254 * closed.erasedCount < 254 - (closed.sec v).waste → s.grantMove = closed.noCycle s.reclaim.rotation)

/-- The arbiter (R46, R47): the format first; the reclaimer before the commit engine with 2 ERASED sectors or fewer or a waiting head, after
it otherwise; while the array is free the claim so chosen is granted and the rule applied again; no grant while the array is held, while no
claim waits, in HALTED or with a RESTART owed (R153). (The bound of 511 further grants is the model's, log 13.) -/
def Obligations.ArbiterGrantsInOrder : Prop :=
  ∀ s : State,
    (∀ f, s.formatClaim = some f → s.nextClaim = some f) ∧
    (s.formatClaim = none →
      (∀ c, s.reclaimClaim = some c → s.erasedCount ≤ 2 ∨ s.headWaiting = true → s.nextClaim = some c) ∧
      (∀ c, s.commitClaim = some c → 2 < s.erasedCount → s.nextClaim = some c) ∧
      (∀ c, s.commitClaim = some c → s.reclaimClaim = none → s.nextClaim = some c) ∧
      (s.commitClaim = none → s.nextClaim = s.reclaimClaim)) ∧
    (s.array.tenancy = .none → s.stopped = false → ∀ c, s.nextClaim = some c → s.settle = (s.grant c).settleFor 511) ∧
    (s.nextClaim = none → s.settle = s) ∧
    (s.array.tenancy ≠ .none → s.settle = s) ∧ (s.mount.mode = .halted → s.settle = s) ∧ (s.mount.restart ≠ .none → s.settle = s)

/-! ### RECLAIM, FORMAT, RESTART -/

/-- RECLAIM (R117, R133): scheduled clear and no change with no candidate; otherwise forced and requested set, a reclaimer at rest claims, and
the arbiter goes on. -/
def Obligations.ReclaimSchedulesCycle : Prop :=
  ∀ (l : Link) (sq : Byte) (s : State), PassesFree s l sq → (s.mount.mode = .ready ∨ s.mount.mode = .readOnly) →
    OpenWith (s.row l) .service →
    let r := freshLease (s.row l)
    let candidate := fun k : Sector => (s.sec k).state = .full ∧ k ∉ s.reclaim.barred
    ((∀ k, ¬ candidate k) → exec (.reclaim l sq) s = .next (replied s l r (frame sq 0xE0 [0x00, 0]))) ∧
    ((∃ k, candidate k) → exec (.reclaim l sq) s = .next
      ((replied s l r (frame sq 0xE0 [0x00, 1])).setReclaim
        { s.reclaim with forced := true, requested := true
                         state := if s.reclaim.state = .idle then .claimMove else s.reclaim.state }).settle)

/-- FORMAT (R154): held on Link S, FORMATTING, the previous mode and epoch recorded, the claim raised; BUSY where Link P has a row, the commit queue
a job, or no sector is ERASED in READY or READ-ONLY. Its grant (R135, R155): the cycle abandoned, the epoch one up, the sectors not RETIRED in two
groups, one group from UNFORMATTED. A worn sector is retired with reason 05H (retire-pending or not: log 24), another is erased, and on its record's
end the group goes on; the second group only with a new-epoch record. Its completion (R156), and its end without a new-epoch record (R157). The row
of a sector being erased, its stale images, and the bytes of a record and of a failed operation: logs 14, 15, 8 and 9. -/
def Obligations.FormatFromRequestToEnd : Prop :=
  (∀ (sq : Byte) (s : State), PassesFree s .s sq → answersMode s.mount.mode → OpenWith (s.row .s) .service →
    let r := freshLease (s.row .s)
    let busy := (s.row .p).state ≠ .none ∨ s.commit.queue ≠ [] ∨ (s.mount.mode ≠ .unformatted ∧ s.erasedCount = 0)
    (busy → exec (.format .s sq) s = .next (replied s .s r (frame sq 0xE1 [0x10]))) ∧
    (¬ busy →
      let accepted := ((s.setRow .s r).setLink .s
        { hunting (s.link .s) with held := some { kind := .format, sequence := sq } }).setMount
        { s.mount with
          mode := .formatting
          format := some { previousMode := s.mount.mode, previousEpoch := s.array.epoch, newEpochWritten := false, stage := .claiming,
                           firstEmpty := false, firstTodo := [], secondTodo := [] } }
      exec (.format .s sq) s = .next accepted.settle ∧ (s.array.tenancy ≠ .none → accepted.settle = accepted))) ∧
  (∀ (f : FormatRecord) (s : State),
    let begun := (((s.setReclaim { Reclaimer.start with rotation := s.reclaim.rotation }).setEpoch
      (some (match f.previousEpoch with
        | some e => e + 1
        | none => 1))).setMount { s.mount with activity := .format }).setTenancy .format
    let standing := (List.finRange 48).filter fun i => decide ((s.sec i).state ≠ .retired)
    let first := standing.filter fun i => decide ((s.sec i).state = .erased)
    let second := standing.filter fun i => decide ((s.sec i).state ≠ .erased)
    s.grantFormat f =
      if f.previousMode = .unformatted then State.formatSecond { f with stage := .second } standing begun
      else State.formatFirst { f with stage := .first, firstEmpty := first.isEmpty, secondTodo := second } first begun) ∧
  (∀ (f : FormatRecord) (i : Sector) (rest : List Sector) (s : State),
    let taken := fun f' : FormatRecord => (s.setMount { s.mount with format := some f' }).startOp (.erase i)
    (100000 ≤ (s.sec i).eraseCount →
      State.formatFirst f (i :: rest) s = State.formatFirst f rest (s.retire i .worn) ∧
      State.formatSecond f (i :: rest) s = State.formatSecond f rest (s.retire i .worn)) ∧
    ((s.sec i).eraseCount < 100000 →
      State.formatFirst f (i :: rest) s = taken { f with stage := .first, firstTodo := rest } ∧
      State.formatSecond f (i :: rest) s = taken { f with stage := .second, secondTodo := rest }) ∧
    State.formatFirst f [] s =
      (if f.newEpochWritten then State.formatSecond { f with firstTodo := [] } f.secondTodo s else s.formatUnwinds { f with firstTodo := [] }) ∧
    State.formatSecond f [] s = s.formatCompletes) ∧
  (∀ (f : FormatRecord) (i : Sector) (outcome : OpOutcome) (s : State), s.running = true → s.stopped = false → s.array.tenancy = .format →
    s.mount.format = some f →
    let goesOn := fun (ended : Instr) (ok : Bool) (u : State) =>
      let f' := { f with newEpochWritten := f.newEpochWritten || ok }
      (f.stage = .first → exec ended s = .next (State.formatFirst f' f.firstTodo u).settle) ∧
      (f.stage = .second → exec ended s = .next (State.formatSecond f' f.secondTodo u).settle) ∧
      (f.stage = .unwinding → exec ended s = .next (u.formatFails f).settle)
    let counted := s.clearOp.setSec i { s.sec i with eraseCount := (s.sec i).eraseCount + 1 }
    let told := if (s.sec i).eraseCount = 89999 then counted.offerBoth .wear (BitVec.ofNat 16 i.val) 90000 else counted
    let recorded := (s.clearOp.setMem (Memory.writeBytes s.array.mem (i.val * 4096)
      (eraseRecordBytes (s.array.epoch.getD 0) (s.sec i).eraseCount))).setSec i
      { state := .erased, eraseCount := (s.sec i).eraseCount, sequence := none, nextFree := 2, waste := 0, suspect := false,
        retirePending := false }
    (s.array.op = some (.eraseRecord i) → goesOn (.eraseRecordComplete .done) true recorded) ∧
    (s.array.op = some (.eraseRecord i) → outcome ≠ .done →
      goesOn (.eraseRecordComplete outcome) false ((s.clearOp.retire i .eraseRecordFailed).scribble (i.val * 4096) 16)) ∧
    (s.array.op = some (.erase i) → outcome ≠ .done →
      goesOn (.eraseComplete outcome) false ((told.retire i .eraseFailed).scribble (i.val * 4096) 4096))) ∧
  (∀ s : State,
    let r := s.row .s
    let emptied := ((((s.setDirectory []).setRow .s
      (if r.state ≠ .none ∧ r.orphaned = false then { r with staging := [], watch := [] } else r)).setNextTxn 1).setNextSeq 1).setRetired
        s.array.retiredSet false
    s.formatCompletes = formatEnded emptied (if s.standing < 6 then .readOnly else .ready) 0x00) ∧
  ∀ (f : FormatRecord) (s : State),
    let f' := { f with stage := .unwinding }
    let u := ((s.setEpoch f.previousEpoch).setMount { s.mount with format := some f' }).setDirectory
      (s.directory.filter fun e => !e.dropPending)
    ((∀ k, (s.sec k).state ≠ .moved) → s.formatUnwinds f = u.formatFails f') ∧
    (∀ v : Sector, (s.sec v).state = .moved → (∀ k, (s.sec k).state = .moved → v ≤ k) →
      ((s.sec v).retirePending = true → s.formatUnwinds f = (u.retire v .retirePending).formatFails f') ∧
      ((s.sec v).retirePending = false → 100000 ≤ (s.sec v).eraseCount → s.formatUnwinds f = (u.retire v .worn).formatFails f') ∧
      ((s.sec v).retirePending = false → (s.sec v).eraseCount < 100000 → s.formatUnwinds f = u.startOp (.erase v))) ∧
    let log := (List.finRange 48).filter fun i => decide ((s.sec i).state = .active ∨ (s.sec i).state = .full)
    let rejoined := s.setReclaim { s.reclaim with span := (replayOf s log).part.reclaim.span }
    let code : Byte := if f.firstEmpty then 0x10 else 0x60
    (f.previousMode = .ready ∧ s.standing < 6 →
      s.formatFails f = formatEnded (rejoined.offerBoth .storeMode 0 2) .readOnly code) ∧
    (¬ (f.previousMode = .ready ∧ s.standing < 6) → s.formatFails f = formatEnded rejoined f.previousMode code)

/-- RESTART (R153): OK, and from then on a start is owed; BUSY while the commit queue holds a job (for a second RESTART too: log 42). A second one
changes nothing more. The start begins once the reply is gone and no operation is in flight, with cause RESTART-REQUEST; a start that is not
due has no effect (log 3). How the reply's place is followed: log 33. -/
def Obligations.RestartOwesStart : Prop :=
  ∀ (l : Link) (sq : Byte) (s : State),
    (PassesFree s l sq → answersMode s.mount.mode → OpenWith (s.row l) .service →
      let r := freshLease (s.row l)
      (s.commit.queue ≠ [] → exec (.restart l sq) s = .next (replied s l r (frame sq 0xE2 [0x10]))) ∧
      (s.commit.queue = [] → exec (.restart l sq) s = .next
        ((replied s l r (frame sq 0xE2 [0x00])).setMount
          { s.mount with
            restart := if s.mount.restart = .none then .replyQueued (s.link l).replies.length else s.mount.restart }))) ∧
    (s.running = true → s.pins.pfailAsserted = false →
      let due := s.mount.restart = .replyGone ∧ s.array.op = none
      (due → exec .restartRequestStart s = .next
        ((State.started .restartRequest s.pins s.array.mem s.pending s.freeCount).scan.settle)) ∧
      (¬ due → exec .restartRequestStart s = .next s))

/-! ### The links -/

/-- Two ways to one effect (R170, R175, R182): a frame that carries a request, its check right, does exactly what the request's own row does (log 1).
The bytes of a frame (R170, R181), taken one after another from HUNT, do what the completed frame does; the gap timer stands at 0 then. The
bytes of a reply frame (R181): start byte, length, sequence, kind, body, check with its high byte first. -/
def Obligations.FramesAndBytes : Prop :=
  (∀ (l : Link) (sq : Byte) (r : Request) (s : State), requestFits r = true →
    let row : Instr :=
      match r with
      | .status => .status l sq
      | .notices => .notices l sq
      | .ack n => .ack l sq n
      | .openSession p t => .openSession l sq p t
      | .renew p t => .renew l sq p t
      | .close => .close l sq
      | .read k o m => .read l sq k o m
      | .list k n => .list l sq k n
      | .put k c e b => .put l sq k c e b
      | .append k b => .append l sq k b
      | .add k d => .add l sq k d
      | .delete k e => .delete l sq k e
      | .drop k => .drop l sq k
      | .staged => .staged l sq
      | .abort => .abort l sq
      | .commit => .commit l sq
      | .watch k => .watch l sq k
      | .unwatch k => .unwatch l sq k
      | .reclaim => .reclaim l sq
      | .format => .format l sq
      | .restart => .restart l sq
    ∃ t, exec row s = .next t ∧
      exec (.frameComplete l sq (kindOf r).code (bodyOf r) (frame sq (kindOf r).code (bodyOf r)).check) s = .next t) ∧
  (∀ (l : Link) (sq kind : Byte) (body : List Byte) (check : Half) (s : State),
    s.linkTakes l = true → (s.link l).framer = .hunt → body.length ≤ 240 →
    let bytes := [(0xC3 : Byte), BitVec.ofNat 8 body.length, sq, kind] ++ body ++ be16 check
    ∃ t, runAll (bytes.map fun b => .byteReceived l b false) s = some t ∧
      exec (.frameComplete l sq kind body check) (s.setLink l { s.link l with gapTimer := 0 }) = .next t) ∧
  ∀ (sq kind : Byte) (body : List Byte),
    let check := (frame sq kind body).check
    (frame sq kind body).bytes = [(0xC3 : Byte), BitVec.ofNat 8 body.length, sq, kind] ++ body ++
      [check.extractLsb' 8 8, check.extractLsb' 0 8]

/-- The bodies of R182, written and read back: every field of every request at every value its layout admits. -/
def Obligations.RequestBodiesRoundTrip : Prop :=
  (∀ r : Request, requestFits r = true → parseBody (kindOf r) (bodyOf r) = some r) ∧
  (∀ k : ReqKind, ReqKind.ofCode k.code = some k)

/-- What the link does itself with frames and bytes. Dropped or repeated (R172, R173, R175, steps 1 to 3, R176): a wrong check, a full queue, the held
request again, the cached reply again, a character error, a gap; a byte in HUNT that is no start byte, a length byte above 240 (R171). Answered
(R175, steps 4 to 6, R179, R183): UNKNOWN-KIND with the result alone, BAD-FORMAT and BUSY with the fixed part of zeros; no lease restarts. In HUNT
the gap timer does not run, so GAP_TIMEOUT cannot come there and has no effect (log 3). -/
def Obligations.LinkStepsInOrder : Prop :=
  ∀ (l : Link) (sq kind : Byte) (body : List Byte) (check : Half) (s : State), s.linkTakes l = true → body.length ≤ 240 →
    let k := s.link l
    let up := fun h : Half => if h = 0xFFFF then h else h + 1
    let good := check = (frame sq kind body).check
    let frameIn := exec (.frameComplete l sq kind body check) s
    (¬ good → frameIn = .next (s.setLink l { hunting k with checkCount := up k.checkCount })) ∧
    (good → 4 ≤ k.repliesTaken → frameIn = .next (s.setLink l { hunting k with overrunCount := up k.overrunCount })) ∧
    (good → k.repliesTaken < 4 → sq ≠ 0 → k.held.map Held.sequence = some sq → frameIn = .next (s.setLink l (hunting k))) ∧
    (∀ f, good → k.repliesTaken < 4 → sq ≠ 0 → k.held.map Held.sequence ≠ some sq → k.cache = some f → f.sequence = sq →
      frameIn = .next (s.setLink l (withReply k f))) ∧
    (∀ b, k.framer ≠ .hunt →
      exec (.byteReceived l b true) s = .next (s.setLink l { hunting k with checkCount := up k.checkCount }) ∧
      exec (.gapTimeout l) s = .next (s.setLink l { hunting k with gapCount := up k.gapCount })) ∧
    (∀ b, k.framer = .hunt → exec (.byteReceived l b true) s = .next s ∧ exec (.gapTimeout l) s = .next s) ∧
    (∀ b, k.framer = .hunt → b ≠ 0xC3 → exec (.byteReceived l b false) s = .next (s.setLink l { k with gapTimer := 0 })) ∧
    (∀ b : Byte, k.framer = .length → 240 < b.toNat →
      exec (.byteReceived l b false) s = .next (s.setLink l { hunting k with gapTimer := 0 })) ∧
    (good → Passes s l sq →
      let answered := fun f : Frame => frameIn = .next (replied s l (s.row l) f)
      ((∀ x : ReqKind, x.code ≠ kind) → answered (frame sq (if 0x80 ≤ kind.toNat then 0xFF else kind + 0x80) [0x20])) ∧
      (∀ x : ReqKind, x.code = kind → parseBody x body = none →
        answered (frame sq (kind + 0x80) (0x21 :: List.replicate x.fixedPart 0))) ∧
      (∀ x : ReqKind, x.code = kind → parseBody x body ≠ none → k.held ≠ none → x ≠ .status → x ≠ .notices → x ≠ .ack →
        answered (frame sq (kind + 0x80) (0x10 :: List.replicate x.fixedPart 0))))

/-- REPLY_SENT (R178): the oldest frame leaves, and the line sends the next or is at mark (R184); on Link S the RESTART reply comes one nearer, or has
gone (R153, log 33); with an empty queue no frame can have been sent and nothing changes (log 3). The line levels (R174): from MARK to SPACE with the
break timer at 0 (log 5), and back to MARK from anywhere; in SPACE or BREAK a line at space moves its pin alone. -/
def Obligations.ReplySentAndLineLevels : Prop :=
  ∀ (l : Link) (s : State), s.running = true →
    let k := s.link l
    let spaced := s.setPins { s.pins with rxSpace := s.pins.rxSpace.set l true }
    let nearer := match s.mount.restart with
      | .replyQueued 0 => RestartState.replyGone
      | .replyQueued (n + 1) => .replyQueued n
      | .none => .none
      | .replyGone => .replyGone
    (∀ f rest, k.replies = f :: rest →
      let line : TxLine := match rest with
        | [] => .mark
        | next :: _ => .sending next.bytes
      exec (.replySent l) s = .next
        ((s.setLink l { k with replies := rest, tx := line }).setMount
          { s.mount with restart := if l = .s then nearer else s.mount.restart })) ∧
    (k.replies = [] → exec (.replySent l) s = .next s) ∧
    (k.line = .mark → exec (.receiveLineToSpace l) s = .next (spaced.setLink l { k with line := .space, breakTimer := 0 })) ∧
    (k.line ≠ .mark → exec (.receiveLineToSpace l) s = .next spaced) ∧
    exec (.receiveLineToMark l) s = .next
      ((s.setPins { s.pins with rxSpace := s.pins.rxSpace.set l false }).setLink l { k with line := .mark, breakTimer := 0 })

/-- BREAK (R63, R64, R110, R116, R153, R167, R174): the link at its start values with the detector in BREAK (also from MARK, the receive pin at
space and both timers at 0: log 21; the transmit line at mark: log 45), its notice queue empty, its session ended; a job that is VALIDATING, WRITING
or DONE runs on with its row orphaned (the fields it keeps: log 38), a QUEUED or WAITING-SPACE job leaves the queue and its end is a low-water
evaluation (log 17); a queued RESTART reply is gone and its start still owed. Then the arbiter grants what waits. The other link keeps everything.
-/
def Obligations.BreakResetsLink : Prop :=
  ∀ (l : Link) (s : State), s.linkTakes l = true →
    let start : LinkState :=
      { framer := .hunt, frame := .start, line := .broken, held := none, replies := [], cache := none, checkCount := 0, gapCount := 0,
        overrunCount := 0, gapTimer := 0, breakTimer := 0, tx := .mark }
    let owed := match l, s.mount.restart with
      | .s, .replyQueued _ => RestartState.replyGone
      | _, r => r
    let cleared := ((((s.setPins { s.pins with rxSpace := s.pins.rxSpace.set l true }).setMount { s.mount with restart := owed }).setLink l
      start).setNotices l [])
    let r := s.row l
    let holds := r.state ≠ .none ∧ r.orphaned = false
    let breaks := fun t : State => exec (.lineBreak l) s = .next t.settle ∧ (s.array.tenancy ≠ .none → t.settle = t)
    (¬ holds → breaks cleared) ∧
    (holds → r.state = .opened → breaks (cleared.setRow l SessionRow.none)) ∧
    (holds → r.state = .committing → ∀ j, s.commit.queue.find? (fun x => x.link == l) = some j →
      (j.state = .validating ∨ j.state = .writing ∨ j.state = .done →
        breaks (cleared.setRow l { r with orphaned := true, watch := [] })) ∧
      (j.state = .queued ∨ j.state = .waitingSpace →
        breaks (atLowWater ((cleared.setRow l SessionRow.none).setQueue (s.commit.queue.filter fun x => x.link != l)))))

/-! ### Supply, RESET and starts -/

/-- SUPPLY_LOSS and RESET_ASSERT (R136, R166, R184): the operation in flight is cut off, both notice queues are empty with their attention lines
inactive, both transmit lines at mark (at a loss of supply: log 20), and with no operation in flight nothing else changes; PFAIL_DEASSERT (R152) moves
its pin alone. The starts that the pins and the supply begin (R136, R137, R152): the start values with the cause, then the scan; with PFAIL asserted
HALTED, the array not read; a start that is not due has no effect (log 3), and with RESET asserted POWER_ON waits for its release (log 19). -/
def Obligations.SupplyResetAndStarts : Prop :=
  ∀ s : State,
    let empty : NoticeQueue := { entries := [], attn := false }
    let still := { s with notices := { p := empty, s := empty }
                          links := { p := { s.links.p with tx := .mark }, s := { s.links.s with tx := .mark } } }
    let begun := fun (cause : StartCause) (pins : Pins) => State.started cause pins s.array.mem s.pending s.freeCount
    let begins := fun (cause : StartCause) (pins : Pins) =>
      (Host.Outcome.next (if pins.pfailAsserted then begun cause pins else (begun cause pins).scan.settle) :
        Host.Outcome State Fault Refusal)
    (s.array.op = none →
      exec .supplyLoss s = .next (still.setPins { s.pins with supplied := false }) ∧
      exec .resetAssert s = .next (still.setPins { s.pins with resetAsserted := true })) ∧
    (∀ c ∈ ([(.supplyLoss, { s.pins with supplied := false }), (.resetAssert, { s.pins with resetAsserted := true })] : List (Instr × Pins)),
      ∃ t, exec c.1 s = .next t ∧ t.array.op = none ∧ t.notices = still.notices ∧ t.pins = c.2 ∧ t.links = still.links ∧
        t.directory = s.directory ∧
        (∀ img loc, s.array.op = some (.image img loc) → ∀ a,
          a < unitAddress loc.sector loc.unit ∨ unitAddress loc.sector (loc.unit + img.units) ≤ a →
          Memory.read t.array.mem a = Memory.read s.array.mem a)) ∧
    exec .pfailDeassert s = .next (s.setPins { s.pins with pfailAsserted := false }) ∧
    (s.array.op = none → s.pins.supplied = false →
      (s.pins.resetAsserted = false → exec .powerOn s = begins .powerOn { s.pins with supplied := true }) ∧
      (s.pins.resetAsserted = true → exec .powerOn s = .next (still.setPins { s.pins with supplied := true }))) ∧
    (s.pins.resetAsserted = true → s.pins.supplied = true →
      exec .resetRelease s = begins .resetPin { s.pins with resetAsserted := false }) ∧
    (s.pins.resetAsserted = false → exec .resetRelease s = .next s) ∧
    (s.running = true → s.supply = .halted → s.pins.pfailAsserted = false → s.array.op = none →
      exec .supplyReturnStart s = begins .supplyReturn s.pins) ∧
    (s.supply = .normal ∨ s.pins.pfailAsserted = true ∨ s.array.op ≠ none → exec .supplyReturnStart s = .next s)

/-- What every start sets (R49, R50, R66, R19, R35, R36, R89, R114, R137, R138, R169, R184), whatever the state before it was. -/
def Obligations.StartValues : Prop :=
  ∀ (cause : StartCause) (pins : Pins) (mem : List Host.Cell) (pending : List Instr) (n : Nat),
    let t := State.started cause pins mem pending n
    let asserted := pins.pfailAsserted
    (∀ l, (t.row l).state = .none ∧ (t.row l).number = none ∧ (t.row l).staging = [] ∧ (t.row l).watch = []) ∧
    t.sessionCounter = 1 ∧ t.poolFreeSlots = 24 ∧ t.poolFreeBytes = 1536 ∧ t.directory = [] ∧
    t.commit = { queue := [], nextTxn := 1 } ∧
    (∀ i, t.sec i = { state := .erased, eraseCount := 0, sequence := none, nextFree := 2, waste := 0, suspect := false,
                      retirePending := false }) ∧
    t.array.epoch = none ∧ t.array.retiredSet = 0 ∧ t.array.recorded = false ∧ t.array.nextSeq = 1 ∧ t.array.mem = mem ∧
    t.array.tenancy = (if asserted then .none else .scan) ∧
    t.reclaim.state = .idle ∧ t.reclaim.victim = none ∧ t.reclaim.forced = false ∧ t.reclaim.requested = false ∧
    t.reclaim.rotation = 0 ∧ t.reclaim.barred = [] ∧
    (∀ l, t.noticeQueue l = { entries := [], attn := false }) ∧
    (∀ l, (t.link l).framer = .hunt ∧ (t.link l).held = none ∧ (t.link l).replies = [] ∧ (t.link l).cache = none ∧ (t.link l).tx = .mark ∧
      (t.link l).checkCount = 0 ∧ (t.link l).gapCount = 0 ∧ (t.link l).overrunCount = 0 ∧
      (t.link l).line = if pins.rxSpace.get l then .space else .mark) ∧
    t.mount.mode = (if asserted then .halted else .mounting) ∧ t.mount.activity = (if asserted then .none else .scan) ∧
    t.mount.phase = .heads ∧ t.mount.cause = cause ∧ t.mount.flags.byte = 0 ∧ t.mount.format = none ∧
    t.supply = (if asserted then .halted else .normal)

/-! ### The scan -/

/-- HEADS (R139, R140, R145): the class of each sector by its units 0 and 1; the current epoch the largest of the valid erase records; L the largest
erase count; the retired set that of the IN-USE sector of the current epoch with the highest sequence; a row for each sector; and the sectors that
the repair has to take; the replay and the repair follow (the next numbers are set between them: log 47). Without a valid erase record (R147):
initialisation where every sector is BLANK, otherwise UNFORMATTED. -/
def Obligations.ScanReadsHeads : Prop :=
  ∀ s : State,
    let m := s.array.mem
    let record := readEraseRecord m
    let activation := readActivation m
    (∀ i : Sector,
      (unitBlank m i 0 = true → blankFrom m i 1 = true → classify m i = .blank) ∧
      (unitBlank m i 0 = true → blankFrom m i 1 = false → classify m i = .damaged) ∧
      (unitBlank m i 0 = false → record i = none → classify m i = .damaged) ∧
      (unitBlank m i 0 = false → record i ≠ none →
        (unitBlank m i 1 = true → classify m i = .erased) ∧
        (unitBlank m i 1 = false → activation i ≠ none → classify m i = .inUse) ∧
        (unitBlank m i 1 = false → activation i = none → classify m i = .damaged))) ∧
    (currentEpoch (headsOf m) = none ↔ ∀ i, record i = none) ∧
    (currentEpoch (headsOf m) = none →
      ((∀ i, classify m i = .blank) → s.scan = s.initialise) ∧ ((∃ i, classify m i ≠ .blank) → s.scan = s.unformatted)) ∧
    ∀ epoch, currentEpoch (headsOf m) = some epoch →
      let t := s.takeHeads epoch (headsOf m)
      let inEpoch := fun i : Sector => (record i).map Prod.fst = some epoch
      let inUse := fun i : Sector => classify m i = .inUse ∧ inEpoch i
      let retired := fun i : Sector => t.array.retiredSet.getLsbD i.val
      let L := t.mount.scan.largest
      let count := fun i : Sector => ((record i).map Prod.snd).getD L
      s.scan = t.scanReplay.repairGoesOn ∧ t.array.epoch = some epoch ∧ t.array.mem = m ∧ t.directory = s.directory ∧
      (∃ i n, record i = some (epoch, n)) ∧ (∀ i e n, record i = some (e, n) → e.toNat ≤ epoch.toNat ∧ n ≤ L) ∧
      (∃ i e, record i = some (e, L)) ∧
      ((∀ i, ¬ inUse i) → t.array.retiredSet = 0 ∧ t.array.recorded = false ∧ t.mount.scan.highestSeq = 0) ∧
      ((∃ i, inUse i) → t.array.recorded = true ∧
        ∃ i, inUse i ∧ activation i = some (t.mount.scan.highestSeq, t.array.retiredSet) ∧
          ∀ k q r, inUse k → activation k = some (q, r) → q.toNat ≤ t.mount.scan.highestSeq.toNat) ∧
      (∀ i, t.sec i =
        if retired i then { SectorRow.start with state := .retired, eraseCount := count i }
        else if classify m i = .erased ∧ inEpoch i then { SectorRow.start with state := .erased, eraseCount := count i }
        else if inUse i then
          { SectorRow.start with state := .full, eraseCount := count i, sequence := (activation i).map Prod.fst }
        else SectorRow.start) ∧
      t.mount.scan.todo = (List.finRange 48).filterMap fun i =>
        if retired i then none
        else if classify m i = .damaged then some { sector := i, kind := .damaged }
        else if classify m i = .blank then some { sector := i, kind := .blank }
        else if inEpoch i then none
        else some { sector := i, kind := .staleEpoch }

/-- REPLAY (R18, R141 to R144, R146): what an image does to the pending transaction, to the broken numbers and to the part (the MARK of a broken
transaction adds no waste: log 41); the offer of an image; the walk of a sector; the walk of the sectors in ascending sequence; the next
transaction number and sequence, set before the repair (log 47); and which sector is ACTIVE afterwards (log 37). -/
def Obligations.ReplayTakesImages : Prop :=
  (∀ (r : Replay) (loc : Location),
    let seen := fun n : Word => if r.highest.toNat < n.toNat then n else r.highest
    let lost := fun l : List (Image × Location) =>
      l.foldl (fun u x => u.setSec x.2.sector { u.sec x.2.sector with waste := (u.sec x.2.sector).waste + x.1.units }) r.part
    let listed := match r.pending with
      | some p => p.images
      | none => []
    (∀ img : Image, ((∃ cls key body g, img = .record cls key body g) ∨ ∃ key g, img = .void key g) →
      let g := img.number
      let after := fun (part : State) (pending : Option PendingTxn) (broken : List Word) =>
        ({ part := part, pending := pending, broken := broken, highest := seen g, torn := r.torn } : Replay)
      (g ∈ r.broken → r.image img loc = after (lost (listed ++ [(img, loc)])) none r.broken) ∧
      (g ∉ r.broken →
        (∀ p, r.pending = some p → p.number = g →
          (p.images.length < 16 →
            r.image img loc = after r.part (some { number := g, images := p.images ++ [(img, loc)] }) r.broken) ∧
          (16 ≤ p.images.length → r.image img loc = after (lost (p.images ++ [(img, loc)])) none (g :: r.broken))) ∧
        ((∀ p, r.pending = some p → p.number ≠ g) →
          r.image img loc = after (lost listed) (some { number := g, images := [(img, loc)] }) r.broken))) ∧
    (∀ (n : Word) (count : Nat),
      let after := fun part : State => ({ r with part := part, pending := none, highest := seen n } : Replay)
      (∀ p, r.pending = some p → p.number = n → p.images.length ≤ count →
        r.image (.mark n count) loc =
          after (withJoins (p.images.foldl (fun u x => u.offer x.1 x.2) r.part) (p.images.map (fun x => x.2.sector) ++ [loc.sector]))) ∧
      ((∀ p, r.pending = some p → p.number = n → count < p.images.length) → r.image (.mark n count) loc = after (lost listed))) ∧
    ∀ img : Image, ((∃ cls key body g, img = .copyRecord cls key body g) ∨ ∃ key g, img = .copyVoid key g) →
      r.image img loc = { r with part := (lost listed).offer img loc, pending := none, highest := seen img.number }) ∧
  (∀ (img : Image) (key : Key) (body : EntryBody) (loc : Location) (s : State), img.key? = some key → img.entryBody? = some body →
    let wasted := s.setSec loc.sector { s.sec loc.sector with waste := (s.sec loc.sector).waste + img.units }
    (Directory.find s.directory key = none →
      (s.directory.length < 384 → s.offer img loc = s.takeImage key body img.number loc) ∧
      (384 ≤ s.directory.length → s.offer img loc = wasted)) ∧
    (∀ e, Directory.find s.directory key = some e →
      (e.generation.toNat ≤ img.number.toNat → s.offer img loc = s.takeImage key body img.number loc) ∧
      (img.number.toNat < e.generation.toNat →
        s.offer img loc = wasted.setDirectory (s.directory.map fun x => if x.key = key then { x with stale := x.stale + 1 } else x)))) ∧
  (∀ (i : Sector) (n u : Nat) (r : Replay),
    let row := r.part.sec i
    let ends := fun (next waste : Nat) => r.part.setSec i { row with nextFree := next, waste := waste }
    (256 ≤ u → Replay.sector i (n + 1) u r = { r with part := ends 256 row.waste }) ∧
    (u < 256 → match readImage r.part.array.mem i u with
      | .valid img => Replay.sector i (n + 1) u r = Replay.sector i n (u + img.units) (r.image img { sector := i, unit := u })
      | .fill => Replay.sector i (n + 1) u r =
          Replay.sector i n (u + 1) { r with part := r.part.setSec i { row with waste := row.waste + 1 } }
      | .blank => Replay.sector i (n + 1) u r = { r with part := ends u row.waste }
      | .invalid => Replay.sector i (n + 1) u r = { r with part := ends 256 (row.waste + (256 - u)), torn := true })) ∧
  ∀ s : State,
    let walked := (List.finRange 48).filter fun i => decide ((s.sec i).state = .full)
    let r := replayOf s walked
    let t := s.scanReplay
    let H := s.mount.scan.highestSeq
    let closed := fun k : Sector => { r.part.sec k with state := .full, waste := (r.part.sec k).waste + (256 - (r.part.sec k).nextFree)
                                                        nextFree := 256 }
    let opens := fun k : Sector => (r.part.sec k).nextFree < 256 ∧ blankFrom s.array.mem k (r.part.sec k).nextFree = true
    (∃ order : List Sector, order.Perm walked ∧ order.Pairwise (fun a b => s.sequenceOf a ≤ s.sequenceOf b) ∧
      let last := order.foldl (fun r i => Replay.sector i 257 2 r)
        { part := s, pending := none, broken := [], highest := 0, torn := false }
      r = { last with pending := none, part := match last.pending with
        | some p => p.images.foldl (fun u x => u.setSec x.2.sector { u.sec x.2.sector with waste := (u.sec x.2.sector).waste + x.1.units }) last.part
        | none => last.part }) ∧
    t.directory = r.part.directory ∧ t.reclaim = r.part.reclaim ∧ t.commit.nextTxn = r.highest + 1 ∧ t.array.nextSeq = H + 1 ∧
    (∀ k ∈ walked, s.sequenceOf k ≠ H.toNat → t.sec k = closed k) ∧ (∀ k, k ∉ walked → t.sec k = r.part.sec k) ∧
    ∀ k ∈ walked, s.sequenceOf k = H.toNat → (∀ x ∈ walked, s.sequenceOf x = H.toNat → x = k) →
      (opens k → t.sec k = { r.part.sec k with state := .active } ∧ t.mount.flags.torn = r.torn) ∧
      (256 ≤ (r.part.sec k).nextFree → t.sec k = r.part.sec k ∧ t.mount.flags.torn = r.torn) ∧
      ((r.part.sec k).nextFree < 256 → ¬ opens k → t.sec k = closed k ∧ t.mount.flags.torn = true)

/-- REPAIR, initialisation and DECIDE (R145, R147 to R149): each sector in turn with its flag and its erase count (also where its erase record then
fails: log 39), erased, given its record or, worn, retired with reason 06H; the end of an erase record's program takes the next, a failure retires
with reason 06H; after the last STARTED on both links, the mode by the sectors left, the array free, the low-water evaluation. A part that has
stopped stops the scan. INITIALISED is set when the initialisation begins (log 31); a sector being erased keeps its row till then (log 14); the bytes
of a record and of a failed operation: logs 8 and 9. -/
def Obligations.RepairAndDecide : Prop :=
  (∀ (task : RepairTask) (rest : List RepairTask) (s : State),
    let i := task.sector
    let flags := match task.kind with
      | .blank => { s.mount.flags with repaired := true }
      | .damaged => { s.mount.flags with repaired := true }
      | .staleEpoch => { s.mount.flags with epochCleaned := true }
      | .initialise => { s.mount.flags with initialised := true }
    let L := s.mount.scan.largest
    let count := match task.kind with
      | .blank => if L = 0 then 1 else L
      | .damaged => L
      | .staleEpoch => ((readEraseRecord s.array.mem i).map Prod.snd).getD L
      | .initialise => 1
    let taken := (s.setSec i { s.sec i with eraseCount := count }).setMount
      { s.mount with flags := flags, scan := { s.mount.scan with todo := rest } }
    (task.kind = .blank ∨ task.kind = .initialise → State.repairNext (task :: rest) s = taken.startOp (.eraseRecord i)) ∧
    (task.kind = .damaged ∨ task.kind = .staleEpoch →
      (100000 ≤ count → State.repairNext (task :: rest) s = State.repairNext rest (taken.retire i .scan)) ∧
      (count < 100000 → State.repairNext (task :: rest) s = taken.startOp (.erase i)))) ∧
  (∀ s : State,
    let mode : StoreMode := if s.standing < 6 then .readOnly else .ready
    let flags := s.mount.flags
    let byte : Byte := (if flags.torn then 1 else 0) + (if flags.repaired then 2 else 0) + (if flags.epochCleaned then 4 else 0) +
      (if flags.initialised then 8 else 0)
    let decided := fun (u : State) (mode : StoreMode) =>
      (atLowWater ((u.offerBoth .started (u.mount.cause.code.zeroExtend 16) (byte.zeroExtend 32)).setMount
        { u.mount with mode := mode, activity := .none, phase := .decide, scan := { u.mount.scan with todo := [] } })).setTenancy .none
    State.repairNext [] s = decided s mode ∧
    s.initialise = State.repairNext ((List.finRange 48).map fun i => { sector := i, kind := .initialise })
      ((s.setEpoch (some 1)).setMount { s.mount with phase := .decide, flags := { flags with initialised := true } }) ∧
    s.unformatted = decided (s.setTable (Vector.replicate 48
      { SectorRow.start with state := .full, nextFree := 256, waste := 254 })) .unformatted) ∧
  ∀ (i : Sector) (outcome : OpOutcome) (s : State), s.running = true → s.array.tenancy = .scan →
    let stopped := fun u : State =>
      (u.setMount { u.mount with activity := .none, scan := { u.mount.scan with todo := [] } }).setTenancy .none
    let goesOn := fun (ended : Instr) (u : State) =>
      (u.stopped = true → exec ended s = .next (stopped u).settle) ∧
      (u.stopped = false → exec ended s = .next (State.repairNext s.mount.scan.todo u).settle)
    let counted := s.clearOp.setSec i { s.sec i with eraseCount := (s.sec i).eraseCount + 1 }
    let told := if (s.sec i).eraseCount = 89999 then counted.offerBoth .wear (BitVec.ofNat 16 i.val) 90000 else counted
    (s.array.op = some (.eraseRecord i) →
      goesOn (.eraseRecordComplete .done)
        ((s.clearOp.setMem (Memory.writeBytes s.array.mem (i.val * 4096)
          (eraseRecordBytes (s.array.epoch.getD 0) (s.sec i).eraseCount))).setSec i
        { state := .erased, eraseCount := (s.sec i).eraseCount, sequence := none, nextFree := 2, waste := 0, suspect := false,
          retirePending := false })) ∧
    (s.array.op = some (.eraseRecord i) → outcome ≠ .done →
      goesOn (.eraseRecordComplete outcome) ((s.clearOp.retire i .scan).scribble (i.val * 4096) 16)) ∧
    (s.array.op = some (.erase i) → outcome ≠ .done →
      goesOn (.eraseComplete outcome) ((told.retire i .scan).scribble (i.val * 4096) 4096))

/-- PFAIL_ASSERT (R65, R112, R134, R149, R150, R153, R158): HALTED, the operation in flight, the bytes and the directory untouched, no RESTART owed
any more; an OPEN session ended; a held FORMAT answered HALTED (log 25); a job QUEUED or WAITING-SPACE answered HALTED, or CANCELLED where it was
never granted, its row ended; a job whose program is in flight left to its end; the reclaimer's claim withdrawn (log 26), forced and requested
clear; a scan or a format stopped where no operation is in flight. In a part at rest nothing else changes. -/
def Obligations.PfailHaltsPart : Prop :=
  ∀ s : State, s.running = true → s.supply = .normal →
    (∃ t, exec .pfailAssert s = .next t ∧
      (t.mount.mode = .halted ∧ t.supply = .halted ∧ t.mount.restart = .none ∧ t.pins = { s.pins with pfailAsserted := true } ∧
        t.array.op = s.array.op ∧ t.array.mem = s.array.mem ∧ t.directory = s.directory) ∧
      (let claims := s.reclaim.state = .claimMove ∨ s.reclaim.state = .claimErase
       t.reclaim = { s.reclaim with forced := false, requested := false
                                    state := if claims then .idle else s.reclaim.state
                                    victim := if claims then none else s.reclaim.victim }) ∧
      (s.mount.activity = .none → t.mount.activity = .none ∧ t.mount.format = none) ∧
      (s.mount.activity ≠ .none → s.array.op ≠ none → t.mount.activity = s.mount.activity ∧ t.mount.format = s.mount.format) ∧
      (s.mount.activity ≠ .none → s.array.op = none → t.mount.activity = .none ∧ t.array.tenancy = .none) ∧
      (s.mount.activity = .format → s.array.op = none → t.mount.format = none) ∧
      t.commit.nextTxn = s.commit.nextTxn ∧
      (QueueLaw s →
        let runs := fun j : CommitJob => (j.state == .validating || j.state == .writing) && s.array.op.isSome
        t.commit.queue = s.commit.queue.filter runs ∧
        ∀ l, let r := s.row l
          let k := s.link l
          ((∀ j ∈ s.commit.queue, j.link ≠ l) →
            t.row l = (if r.state = .opened then SessionRow.none else r) ∧ t.notices.get l = s.notices.get l ∧
            (∀ h, k.held = some h → h.kind = .format → t.link l = heldAnswered k (frame h.sequence 0xE1 [0x12])) ∧
            (k.held.map Held.kind ≠ some .format → t.link l = k)) ∧
          ∀ j ∈ s.commit.queue, j.link = l → r.state = .committing → ∀ h, k.held = some h → h.kind = .commit →
            (runs j = true → t.row l = r ∧ t.link l = k) ∧
            (j.state = .queued ∨ j.state = .waitingSpace → r.orphaned = false →
              t.row l = SessionRow.none ∧
              t.link l = heldAnswered k (frame h.sequence 0xC0
                ((if j.granted then 0x12 else 0x61) :: [0, 0] ++ be32 (j.txn.getD 0) ++ [0, 0]))))) ∧
    (Quiet s → s.array.op = none → s.mount.activity = .none → (s.link .p).held = none → (s.link .s).held = none →
      let ended := fun r : SessionRow => if r.state = .opened then SessionRow.none else r
      exec .pfailAssert s = .next
        { s with
          pins := { s.pins with pfailAsserted := true }
          supply := .halted
          mount := { s.mount with mode := .halted }
          sessions := { p := ended s.sessions.p, s := ended s.sessions.s }
          reclaim := { s.reclaim with forced := false, requested := false } })

/-! ### The array's bytes -/

/-- A byte written is read back, every other byte reads as before; an erased range reads FFH (R25); the canonical form is kept. -/
def Obligations.BytesReadBack : Prop :=
  ∀ m : Memory, Memory.wf m →
    (∀ a b, Memory.wf (m.write a b) ∧ Memory.read (m.write a b) a = b ∧
      ∀ x, x ≠ a → Memory.read (m.write a b) x = Memory.read m x) ∧
    (∀ lo hi, Memory.wf (m.eraseRange lo hi) ∧
      (∀ x, lo ≤ x → x < hi → Memory.read (m.eraseRange lo hi) x = 0xFF) ∧
      ∀ x, x < lo ∨ hi ≤ x → Memory.read (m.eraseRange lo hi) x = Memory.read m x) ∧
    (∀ a bs, Memory.readBytes (m.writeBytes a bs) a bs.length = bs ∧
      ∀ x, x < a ∨ a + bs.length ≤ x → Memory.read (m.writeBytes a bs) x = Memory.read m x)

/-! ### What every step keeps -/

def Obligations.StepKeepsArrayCanonical : Prop :=
  ∀ s t, ArrayCanonical s → step s = .next t → ArrayCanonical t

/-- Law 1 of the part, R7. -/
def Obligations.StepKeepsDirectoryOrdered : Prop :=
  ∀ s t, DirectoryOrdered s → step s = .next t → DirectoryOrdered t

/-- Law 2 of the part, R67. -/
def Obligations.StepKeepsStagingLaw : Prop :=
  ∀ s t, StagingLaw s → step s = .next t → StagingLaw t

/-- Law 3 of the part, R39. -/
def Obligations.StepKeepsActiveLaw : Prop :=
  ∀ s t, ActiveLaw s → step s = .next t → ActiveLaw t

/-- Law 9 of the part, R159. -/
def Obligations.StepKeepsNoticeLaw : Prop :=
  ∀ s t, NoticeLaw s → step s = .next t → NoticeLaw t

/-- Law 10 of the part: at most one job per session in the commit queue (R89), and no reply queue beyond its 4 places (R177, R178); the two rows
never hold the same session number (R50); a transmit line is at mark or sends the oldest frame of its queue (R178, R184). -/
def Obligations.StepKeepsQueueLaws : Prop :=
  (∀ s t, QueueLaw s → step s = .next t → QueueLaw t) ∧
  (∀ s t, ReplyLaw s → step s = .next t → ReplyLaw t) ∧
  (∀ s t, NumbersDiffer s → step s = .next t → NumbersDiffer t) ∧
  (∀ s t, TransmitLaw s → step s = .next t → TransmitLaw t)

/-- Every law holds right after reset, and the first step begins the scan of a blank array, which R147 initialises: MOUNTING with INITIALISED
set, epoch 00000001H, and the erase record of sector 0 being programmed. The pins and the blank array of the reset state are the model's
choice (logs 6 and 7). -/
def Obligations.ResetMeetsLaws : Prop :=
  ArrayCanonical State.reset ∧ DirectoryOrdered State.reset ∧ StagingLaw State.reset ∧ ActiveLaw State.reset ∧ NoticeLaw State.reset ∧
  QueueLaw State.reset ∧ ReplyLaw State.reset ∧ NumbersDiffer State.reset ∧ TransmitLaw State.reset ∧
  ∃ t, step State.reset = .next t ∧ t.mount.mode = .mounting ∧ t.mount.flags.initialised = true ∧ t.array.epoch = some 1 ∧
    t.array.op = some (.eraseRecord 0) ∧ t.array.tenancy = .scan
end

