-- ==== Sys2Proof/Laws/State.lean ====
section
/-!
SUPPORT. One lemma per field per update of the state, each true by rfl, and what the accessors of the links, the rows, the queues and the
sector table read after an update.
-/

namespace Sys2Proof.Machine.State

variable (s : State)

/-! #### setPins -/

@[simp] theorem setPins_pending (p : Pins) : (s.setPins p).pending = s.pending := rfl
@[simp] theorem setPins_pins (p : Pins) : (s.setPins p).pins = p := rfl
@[simp] theorem setPins_byteRate (p : Pins) : (s.setPins p).byteRate = s.byteRate := rfl
@[simp] theorem setPins_links (p : Pins) : (s.setPins p).links = s.links := rfl
@[simp] theorem setPins_notices (p : Pins) : (s.setPins p).notices = s.notices := rfl
@[simp] theorem setPins_sessions (p : Pins) : (s.setPins p).sessions = s.sessions := rfl
@[simp] theorem setPins_sessionCounter (p : Pins) : (s.setPins p).sessionCounter = s.sessionCounter := rfl
@[simp] theorem setPins_directory (p : Pins) : (s.setPins p).directory = s.directory := rfl
@[simp] theorem setPins_commit (p : Pins) : (s.setPins p).commit = s.commit := rfl
@[simp] theorem setPins_reclaim (p : Pins) : (s.setPins p).reclaim = s.reclaim := rfl
@[simp] theorem setPins_array (p : Pins) : (s.setPins p).array = s.array := rfl
@[simp] theorem setPins_mount (p : Pins) : (s.setPins p).mount = s.mount := rfl
@[simp] theorem setPins_supply (p : Pins) : (s.setPins p).supply = s.supply := rfl
@[simp] theorem setPins_freeCount (p : Pins) : (s.setPins p).freeCount = s.freeCount := rfl
@[simp] theorem setPins_link (p : Pins) (x : Link) : (s.setPins p).link x = s.link x := rfl
@[simp] theorem setPins_row (p : Pins) (x : Link) : (s.setPins p).row x = s.row x := rfl
@[simp] theorem setPins_noticeQueue (p : Pins) (x : Link) : (s.setPins p).noticeQueue x = s.noticeQueue x := rfl
@[simp] theorem setPins_sec (p : Pins) (x : Sector) : (s.setPins p).sec x = s.sec x := rfl

/-! #### setLink -/

@[simp] theorem setLink_pending (l : Link) (k : LinkState) : (s.setLink l k).pending = s.pending := rfl
@[simp] theorem setLink_pins (l : Link) (k : LinkState) : (s.setLink l k).pins = s.pins := rfl
@[simp] theorem setLink_byteRate (l : Link) (k : LinkState) : (s.setLink l k).byteRate = s.byteRate := rfl
@[simp] theorem setLink_links (l : Link) (k : LinkState) : (s.setLink l k).links = s.links.set l k := rfl
@[simp] theorem setLink_notices (l : Link) (k : LinkState) : (s.setLink l k).notices = s.notices := rfl
@[simp] theorem setLink_sessions (l : Link) (k : LinkState) : (s.setLink l k).sessions = s.sessions := rfl
@[simp] theorem setLink_sessionCounter (l : Link) (k : LinkState) : (s.setLink l k).sessionCounter = s.sessionCounter := rfl
@[simp] theorem setLink_directory (l : Link) (k : LinkState) : (s.setLink l k).directory = s.directory := rfl
@[simp] theorem setLink_commit (l : Link) (k : LinkState) : (s.setLink l k).commit = s.commit := rfl
@[simp] theorem setLink_reclaim (l : Link) (k : LinkState) : (s.setLink l k).reclaim = s.reclaim := rfl
@[simp] theorem setLink_array (l : Link) (k : LinkState) : (s.setLink l k).array = s.array := rfl
@[simp] theorem setLink_mount (l : Link) (k : LinkState) : (s.setLink l k).mount = s.mount := rfl
@[simp] theorem setLink_supply (l : Link) (k : LinkState) : (s.setLink l k).supply = s.supply := rfl
@[simp] theorem setLink_freeCount (l : Link) (k : LinkState) : (s.setLink l k).freeCount = s.freeCount := rfl
@[simp] theorem setLink_row (l : Link) (k : LinkState) (x : Link) : (s.setLink l k).row x = s.row x := rfl
@[simp] theorem setLink_noticeQueue (l : Link) (k : LinkState) (x : Link) : (s.setLink l k).noticeQueue x = s.noticeQueue x := rfl
@[simp] theorem setLink_sec (l : Link) (k : LinkState) (x : Sector) : (s.setLink l k).sec x = s.sec x := rfl

/-! #### setRow -/

@[simp] theorem setRow_pending (l : Link) (r : SessionRow) : (s.setRow l r).pending = s.pending := rfl
@[simp] theorem setRow_pins (l : Link) (r : SessionRow) : (s.setRow l r).pins = s.pins := rfl
@[simp] theorem setRow_byteRate (l : Link) (r : SessionRow) : (s.setRow l r).byteRate = s.byteRate := rfl
@[simp] theorem setRow_links (l : Link) (r : SessionRow) : (s.setRow l r).links = s.links := rfl
@[simp] theorem setRow_notices (l : Link) (r : SessionRow) : (s.setRow l r).notices = s.notices := rfl
@[simp] theorem setRow_sessions (l : Link) (r : SessionRow) : (s.setRow l r).sessions = s.sessions.set l r := rfl
@[simp] theorem setRow_sessionCounter (l : Link) (r : SessionRow) : (s.setRow l r).sessionCounter = s.sessionCounter := rfl
@[simp] theorem setRow_directory (l : Link) (r : SessionRow) : (s.setRow l r).directory = s.directory := rfl
@[simp] theorem setRow_commit (l : Link) (r : SessionRow) : (s.setRow l r).commit = s.commit := rfl
@[simp] theorem setRow_reclaim (l : Link) (r : SessionRow) : (s.setRow l r).reclaim = s.reclaim := rfl
@[simp] theorem setRow_array (l : Link) (r : SessionRow) : (s.setRow l r).array = s.array := rfl
@[simp] theorem setRow_mount (l : Link) (r : SessionRow) : (s.setRow l r).mount = s.mount := rfl
@[simp] theorem setRow_supply (l : Link) (r : SessionRow) : (s.setRow l r).supply = s.supply := rfl
@[simp] theorem setRow_freeCount (l : Link) (r : SessionRow) : (s.setRow l r).freeCount = s.freeCount := rfl
@[simp] theorem setRow_link (l : Link) (r : SessionRow) (x : Link) : (s.setRow l r).link x = s.link x := rfl
@[simp] theorem setRow_noticeQueue (l : Link) (r : SessionRow) (x : Link) : (s.setRow l r).noticeQueue x = s.noticeQueue x := rfl
@[simp] theorem setRow_sec (l : Link) (r : SessionRow) (x : Sector) : (s.setRow l r).sec x = s.sec x := rfl

/-! #### setNotices -/

@[simp] theorem setNotices_pending (l : Link) (q : List Notice) : (s.setNotices l q).pending = s.pending := rfl
@[simp] theorem setNotices_pins (l : Link) (q : List Notice) : (s.setNotices l q).pins = s.pins := rfl
@[simp] theorem setNotices_byteRate (l : Link) (q : List Notice) : (s.setNotices l q).byteRate = s.byteRate := rfl
@[simp] theorem setNotices_links (l : Link) (q : List Notice) : (s.setNotices l q).links = s.links := rfl
@[simp] theorem setNotices_notices (l : Link) (q : List Notice) :
    (s.setNotices l q).notices = s.notices.set l { entries := q, attn := !q.isEmpty } := rfl
@[simp] theorem setNotices_sessions (l : Link) (q : List Notice) : (s.setNotices l q).sessions = s.sessions := rfl
@[simp] theorem setNotices_sessionCounter (l : Link) (q : List Notice) : (s.setNotices l q).sessionCounter = s.sessionCounter := rfl
@[simp] theorem setNotices_directory (l : Link) (q : List Notice) : (s.setNotices l q).directory = s.directory := rfl
@[simp] theorem setNotices_commit (l : Link) (q : List Notice) : (s.setNotices l q).commit = s.commit := rfl
@[simp] theorem setNotices_reclaim (l : Link) (q : List Notice) : (s.setNotices l q).reclaim = s.reclaim := rfl
@[simp] theorem setNotices_array (l : Link) (q : List Notice) : (s.setNotices l q).array = s.array := rfl
@[simp] theorem setNotices_mount (l : Link) (q : List Notice) : (s.setNotices l q).mount = s.mount := rfl
@[simp] theorem setNotices_supply (l : Link) (q : List Notice) : (s.setNotices l q).supply = s.supply := rfl
@[simp] theorem setNotices_freeCount (l : Link) (q : List Notice) : (s.setNotices l q).freeCount = s.freeCount := rfl
@[simp] theorem setNotices_link (l : Link) (q : List Notice) (x : Link) : (s.setNotices l q).link x = s.link x := rfl
@[simp] theorem setNotices_row (l : Link) (q : List Notice) (x : Link) : (s.setNotices l q).row x = s.row x := rfl
@[simp] theorem setNotices_sec (l : Link) (q : List Notice) (x : Sector) : (s.setNotices l q).sec x = s.sec x := rfl

/-! #### setSessionCounter -/

@[simp] theorem setSessionCounter_pending (n : Half) : (s.setSessionCounter n).pending = s.pending := rfl
@[simp] theorem setSessionCounter_pins (n : Half) : (s.setSessionCounter n).pins = s.pins := rfl
@[simp] theorem setSessionCounter_byteRate (n : Half) : (s.setSessionCounter n).byteRate = s.byteRate := rfl
@[simp] theorem setSessionCounter_links (n : Half) : (s.setSessionCounter n).links = s.links := rfl
@[simp] theorem setSessionCounter_notices (n : Half) : (s.setSessionCounter n).notices = s.notices := rfl
@[simp] theorem setSessionCounter_sessions (n : Half) : (s.setSessionCounter n).sessions = s.sessions := rfl
@[simp] theorem setSessionCounter_sessionCounter (n : Half) : (s.setSessionCounter n).sessionCounter = n := rfl
@[simp] theorem setSessionCounter_directory (n : Half) : (s.setSessionCounter n).directory = s.directory := rfl
@[simp] theorem setSessionCounter_commit (n : Half) : (s.setSessionCounter n).commit = s.commit := rfl
@[simp] theorem setSessionCounter_reclaim (n : Half) : (s.setSessionCounter n).reclaim = s.reclaim := rfl
@[simp] theorem setSessionCounter_array (n : Half) : (s.setSessionCounter n).array = s.array := rfl
@[simp] theorem setSessionCounter_mount (n : Half) : (s.setSessionCounter n).mount = s.mount := rfl
@[simp] theorem setSessionCounter_supply (n : Half) : (s.setSessionCounter n).supply = s.supply := rfl
@[simp] theorem setSessionCounter_freeCount (n : Half) : (s.setSessionCounter n).freeCount = s.freeCount := rfl
@[simp] theorem setSessionCounter_link (n : Half) (x : Link) : (s.setSessionCounter n).link x = s.link x := rfl
@[simp] theorem setSessionCounter_row (n : Half) (x : Link) : (s.setSessionCounter n).row x = s.row x := rfl
@[simp] theorem setSessionCounter_noticeQueue (n : Half) (x : Link) : (s.setSessionCounter n).noticeQueue x = s.noticeQueue x := rfl
@[simp] theorem setSessionCounter_sec (n : Half) (x : Sector) : (s.setSessionCounter n).sec x = s.sec x := rfl

/-! #### setDirectory -/

@[simp] theorem setDirectory_pending (d : List DirEntry) : (s.setDirectory d).pending = s.pending := rfl
@[simp] theorem setDirectory_pins (d : List DirEntry) : (s.setDirectory d).pins = s.pins := rfl
@[simp] theorem setDirectory_byteRate (d : List DirEntry) : (s.setDirectory d).byteRate = s.byteRate := rfl
@[simp] theorem setDirectory_links (d : List DirEntry) : (s.setDirectory d).links = s.links := rfl
@[simp] theorem setDirectory_notices (d : List DirEntry) : (s.setDirectory d).notices = s.notices := rfl
@[simp] theorem setDirectory_sessions (d : List DirEntry) : (s.setDirectory d).sessions = s.sessions := rfl
@[simp] theorem setDirectory_sessionCounter (d : List DirEntry) : (s.setDirectory d).sessionCounter = s.sessionCounter := rfl
@[simp] theorem setDirectory_directory (d : List DirEntry) : (s.setDirectory d).directory = d := rfl
@[simp] theorem setDirectory_commit (d : List DirEntry) : (s.setDirectory d).commit = s.commit := rfl
@[simp] theorem setDirectory_reclaim (d : List DirEntry) : (s.setDirectory d).reclaim = s.reclaim := rfl
@[simp] theorem setDirectory_array (d : List DirEntry) : (s.setDirectory d).array = s.array := rfl
@[simp] theorem setDirectory_mount (d : List DirEntry) : (s.setDirectory d).mount = s.mount := rfl
@[simp] theorem setDirectory_supply (d : List DirEntry) : (s.setDirectory d).supply = s.supply := rfl
@[simp] theorem setDirectory_freeCount (d : List DirEntry) : (s.setDirectory d).freeCount = s.freeCount := rfl
@[simp] theorem setDirectory_link (d : List DirEntry) (x : Link) : (s.setDirectory d).link x = s.link x := rfl
@[simp] theorem setDirectory_row (d : List DirEntry) (x : Link) : (s.setDirectory d).row x = s.row x := rfl
@[simp] theorem setDirectory_noticeQueue (d : List DirEntry) (x : Link) : (s.setDirectory d).noticeQueue x = s.noticeQueue x := rfl
@[simp] theorem setDirectory_sec (d : List DirEntry) (x : Sector) : (s.setDirectory d).sec x = s.sec x := rfl

/-! #### setCommit -/

@[simp] theorem setCommit_pending (c : CommitEngine) : (s.setCommit c).pending = s.pending := rfl
@[simp] theorem setCommit_pins (c : CommitEngine) : (s.setCommit c).pins = s.pins := rfl
@[simp] theorem setCommit_byteRate (c : CommitEngine) : (s.setCommit c).byteRate = s.byteRate := rfl
@[simp] theorem setCommit_links (c : CommitEngine) : (s.setCommit c).links = s.links := rfl
@[simp] theorem setCommit_notices (c : CommitEngine) : (s.setCommit c).notices = s.notices := rfl
@[simp] theorem setCommit_sessions (c : CommitEngine) : (s.setCommit c).sessions = s.sessions := rfl
@[simp] theorem setCommit_sessionCounter (c : CommitEngine) : (s.setCommit c).sessionCounter = s.sessionCounter := rfl
@[simp] theorem setCommit_directory (c : CommitEngine) : (s.setCommit c).directory = s.directory := rfl
@[simp] theorem setCommit_commit (c : CommitEngine) : (s.setCommit c).commit = c := rfl
@[simp] theorem setCommit_reclaim (c : CommitEngine) : (s.setCommit c).reclaim = s.reclaim := rfl
@[simp] theorem setCommit_array (c : CommitEngine) : (s.setCommit c).array = s.array := rfl
@[simp] theorem setCommit_mount (c : CommitEngine) : (s.setCommit c).mount = s.mount := rfl
@[simp] theorem setCommit_supply (c : CommitEngine) : (s.setCommit c).supply = s.supply := rfl
@[simp] theorem setCommit_freeCount (c : CommitEngine) : (s.setCommit c).freeCount = s.freeCount := rfl
@[simp] theorem setCommit_link (c : CommitEngine) (x : Link) : (s.setCommit c).link x = s.link x := rfl
@[simp] theorem setCommit_row (c : CommitEngine) (x : Link) : (s.setCommit c).row x = s.row x := rfl
@[simp] theorem setCommit_noticeQueue (c : CommitEngine) (x : Link) : (s.setCommit c).noticeQueue x = s.noticeQueue x := rfl
@[simp] theorem setCommit_sec (c : CommitEngine) (x : Sector) : (s.setCommit c).sec x = s.sec x := rfl

/-! #### setReclaim -/

@[simp] theorem setReclaim_pending (r : Reclaimer) : (s.setReclaim r).pending = s.pending := rfl
@[simp] theorem setReclaim_pins (r : Reclaimer) : (s.setReclaim r).pins = s.pins := rfl
@[simp] theorem setReclaim_byteRate (r : Reclaimer) : (s.setReclaim r).byteRate = s.byteRate := rfl
@[simp] theorem setReclaim_links (r : Reclaimer) : (s.setReclaim r).links = s.links := rfl
@[simp] theorem setReclaim_notices (r : Reclaimer) : (s.setReclaim r).notices = s.notices := rfl
@[simp] theorem setReclaim_sessions (r : Reclaimer) : (s.setReclaim r).sessions = s.sessions := rfl
@[simp] theorem setReclaim_sessionCounter (r : Reclaimer) : (s.setReclaim r).sessionCounter = s.sessionCounter := rfl
@[simp] theorem setReclaim_directory (r : Reclaimer) : (s.setReclaim r).directory = s.directory := rfl
@[simp] theorem setReclaim_commit (r : Reclaimer) : (s.setReclaim r).commit = s.commit := rfl
@[simp] theorem setReclaim_reclaim (r : Reclaimer) : (s.setReclaim r).reclaim = r := rfl
@[simp] theorem setReclaim_array (r : Reclaimer) : (s.setReclaim r).array = s.array := rfl
@[simp] theorem setReclaim_mount (r : Reclaimer) : (s.setReclaim r).mount = s.mount := rfl
@[simp] theorem setReclaim_supply (r : Reclaimer) : (s.setReclaim r).supply = s.supply := rfl
@[simp] theorem setReclaim_freeCount (r : Reclaimer) : (s.setReclaim r).freeCount = s.freeCount := rfl
@[simp] theorem setReclaim_link (r : Reclaimer) (x : Link) : (s.setReclaim r).link x = s.link x := rfl
@[simp] theorem setReclaim_row (r : Reclaimer) (x : Link) : (s.setReclaim r).row x = s.row x := rfl
@[simp] theorem setReclaim_noticeQueue (r : Reclaimer) (x : Link) : (s.setReclaim r).noticeQueue x = s.noticeQueue x := rfl
@[simp] theorem setReclaim_sec (r : Reclaimer) (x : Sector) : (s.setReclaim r).sec x = s.sec x := rfl

/-! #### setArray -/

@[simp] theorem setArray_pending (a : ArrayUnit) : (s.setArray a).pending = s.pending := rfl
@[simp] theorem setArray_pins (a : ArrayUnit) : (s.setArray a).pins = s.pins := rfl
@[simp] theorem setArray_byteRate (a : ArrayUnit) : (s.setArray a).byteRate = s.byteRate := rfl
@[simp] theorem setArray_links (a : ArrayUnit) : (s.setArray a).links = s.links := rfl
@[simp] theorem setArray_notices (a : ArrayUnit) : (s.setArray a).notices = s.notices := rfl
@[simp] theorem setArray_sessions (a : ArrayUnit) : (s.setArray a).sessions = s.sessions := rfl
@[simp] theorem setArray_sessionCounter (a : ArrayUnit) : (s.setArray a).sessionCounter = s.sessionCounter := rfl
@[simp] theorem setArray_directory (a : ArrayUnit) : (s.setArray a).directory = s.directory := rfl
@[simp] theorem setArray_commit (a : ArrayUnit) : (s.setArray a).commit = s.commit := rfl
@[simp] theorem setArray_reclaim (a : ArrayUnit) : (s.setArray a).reclaim = s.reclaim := rfl
@[simp] theorem setArray_array (a : ArrayUnit) : (s.setArray a).array = a := rfl
@[simp] theorem setArray_mount (a : ArrayUnit) : (s.setArray a).mount = s.mount := rfl
@[simp] theorem setArray_supply (a : ArrayUnit) : (s.setArray a).supply = s.supply := rfl
@[simp] theorem setArray_freeCount (a : ArrayUnit) : (s.setArray a).freeCount = s.freeCount := rfl
@[simp] theorem setArray_link (a : ArrayUnit) (x : Link) : (s.setArray a).link x = s.link x := rfl
@[simp] theorem setArray_row (a : ArrayUnit) (x : Link) : (s.setArray a).row x = s.row x := rfl
@[simp] theorem setArray_noticeQueue (a : ArrayUnit) (x : Link) : (s.setArray a).noticeQueue x = s.noticeQueue x := rfl

/-! #### setMount -/

@[simp] theorem setMount_pending (m : MountUnit) : (s.setMount m).pending = s.pending := rfl
@[simp] theorem setMount_pins (m : MountUnit) : (s.setMount m).pins = s.pins := rfl
@[simp] theorem setMount_byteRate (m : MountUnit) : (s.setMount m).byteRate = s.byteRate := rfl
@[simp] theorem setMount_links (m : MountUnit) : (s.setMount m).links = s.links := rfl
@[simp] theorem setMount_notices (m : MountUnit) : (s.setMount m).notices = s.notices := rfl
@[simp] theorem setMount_sessions (m : MountUnit) : (s.setMount m).sessions = s.sessions := rfl
@[simp] theorem setMount_sessionCounter (m : MountUnit) : (s.setMount m).sessionCounter = s.sessionCounter := rfl
@[simp] theorem setMount_directory (m : MountUnit) : (s.setMount m).directory = s.directory := rfl
@[simp] theorem setMount_commit (m : MountUnit) : (s.setMount m).commit = s.commit := rfl
@[simp] theorem setMount_reclaim (m : MountUnit) : (s.setMount m).reclaim = s.reclaim := rfl
@[simp] theorem setMount_array (m : MountUnit) : (s.setMount m).array = s.array := rfl
@[simp] theorem setMount_mount (m : MountUnit) : (s.setMount m).mount = m := rfl
@[simp] theorem setMount_supply (m : MountUnit) : (s.setMount m).supply = s.supply := rfl
@[simp] theorem setMount_freeCount (m : MountUnit) : (s.setMount m).freeCount = s.freeCount := rfl
@[simp] theorem setMount_link (m : MountUnit) (x : Link) : (s.setMount m).link x = s.link x := rfl
@[simp] theorem setMount_row (m : MountUnit) (x : Link) : (s.setMount m).row x = s.row x := rfl
@[simp] theorem setMount_noticeQueue (m : MountUnit) (x : Link) : (s.setMount m).noticeQueue x = s.noticeQueue x := rfl
@[simp] theorem setMount_sec (m : MountUnit) (x : Sector) : (s.setMount m).sec x = s.sec x := rfl

/-! #### setSupply -/

@[simp] theorem setSupply_pending (u : SupplyState) : (s.setSupply u).pending = s.pending := rfl
@[simp] theorem setSupply_pins (u : SupplyState) : (s.setSupply u).pins = s.pins := rfl
@[simp] theorem setSupply_byteRate (u : SupplyState) : (s.setSupply u).byteRate = s.byteRate := rfl
@[simp] theorem setSupply_links (u : SupplyState) : (s.setSupply u).links = s.links := rfl
@[simp] theorem setSupply_notices (u : SupplyState) : (s.setSupply u).notices = s.notices := rfl
@[simp] theorem setSupply_sessions (u : SupplyState) : (s.setSupply u).sessions = s.sessions := rfl
@[simp] theorem setSupply_sessionCounter (u : SupplyState) : (s.setSupply u).sessionCounter = s.sessionCounter := rfl
@[simp] theorem setSupply_directory (u : SupplyState) : (s.setSupply u).directory = s.directory := rfl
@[simp] theorem setSupply_commit (u : SupplyState) : (s.setSupply u).commit = s.commit := rfl
@[simp] theorem setSupply_reclaim (u : SupplyState) : (s.setSupply u).reclaim = s.reclaim := rfl
@[simp] theorem setSupply_array (u : SupplyState) : (s.setSupply u).array = s.array := rfl
@[simp] theorem setSupply_mount (u : SupplyState) : (s.setSupply u).mount = s.mount := rfl
@[simp] theorem setSupply_supply (u : SupplyState) : (s.setSupply u).supply = u := rfl
@[simp] theorem setSupply_freeCount (u : SupplyState) : (s.setSupply u).freeCount = s.freeCount := rfl
@[simp] theorem setSupply_link (u : SupplyState) (x : Link) : (s.setSupply u).link x = s.link x := rfl
@[simp] theorem setSupply_row (u : SupplyState) (x : Link) : (s.setSupply u).row x = s.row x := rfl
@[simp] theorem setSupply_noticeQueue (u : SupplyState) (x : Link) : (s.setSupply u).noticeQueue x = s.noticeQueue x := rfl
@[simp] theorem setSupply_sec (u : SupplyState) (x : Sector) : (s.setSupply u).sec x = s.sec x := rfl

/-! #### setFreeCount -/

@[simp] theorem setFreeCount_pending (n : Nat) : (s.setFreeCount n).pending = s.pending := rfl
@[simp] theorem setFreeCount_pins (n : Nat) : (s.setFreeCount n).pins = s.pins := rfl
@[simp] theorem setFreeCount_byteRate (n : Nat) : (s.setFreeCount n).byteRate = s.byteRate := rfl
@[simp] theorem setFreeCount_links (n : Nat) : (s.setFreeCount n).links = s.links := rfl
@[simp] theorem setFreeCount_notices (n : Nat) : (s.setFreeCount n).notices = s.notices := rfl
@[simp] theorem setFreeCount_sessions (n : Nat) : (s.setFreeCount n).sessions = s.sessions := rfl
@[simp] theorem setFreeCount_sessionCounter (n : Nat) : (s.setFreeCount n).sessionCounter = s.sessionCounter := rfl
@[simp] theorem setFreeCount_directory (n : Nat) : (s.setFreeCount n).directory = s.directory := rfl
@[simp] theorem setFreeCount_commit (n : Nat) : (s.setFreeCount n).commit = s.commit := rfl
@[simp] theorem setFreeCount_reclaim (n : Nat) : (s.setFreeCount n).reclaim = s.reclaim := rfl
@[simp] theorem setFreeCount_array (n : Nat) : (s.setFreeCount n).array = s.array := rfl
@[simp] theorem setFreeCount_mount (n : Nat) : (s.setFreeCount n).mount = s.mount := rfl
@[simp] theorem setFreeCount_supply (n : Nat) : (s.setFreeCount n).supply = s.supply := rfl
@[simp] theorem setFreeCount_freeCount (n : Nat) : (s.setFreeCount n).freeCount = n := rfl
@[simp] theorem setFreeCount_link (n : Nat) (x : Link) : (s.setFreeCount n).link x = s.link x := rfl
@[simp] theorem setFreeCount_row (n : Nat) (x : Link) : (s.setFreeCount n).row x = s.row x := rfl
@[simp] theorem setFreeCount_noticeQueue (n : Nat) (x : Link) : (s.setFreeCount n).noticeQueue x = s.noticeQueue x := rfl
@[simp] theorem setFreeCount_sec (n : Nat) (x : Sector) : (s.setFreeCount n).sec x = s.sec x := rfl

/-! #### setQueue -/

@[simp] theorem setQueue_pending (q : List CommitJob) : (s.setQueue q).pending = s.pending := rfl
@[simp] theorem setQueue_pins (q : List CommitJob) : (s.setQueue q).pins = s.pins := rfl
@[simp] theorem setQueue_byteRate (q : List CommitJob) : (s.setQueue q).byteRate = s.byteRate := rfl
@[simp] theorem setQueue_links (q : List CommitJob) : (s.setQueue q).links = s.links := rfl
@[simp] theorem setQueue_notices (q : List CommitJob) : (s.setQueue q).notices = s.notices := rfl
@[simp] theorem setQueue_sessions (q : List CommitJob) : (s.setQueue q).sessions = s.sessions := rfl
@[simp] theorem setQueue_sessionCounter (q : List CommitJob) : (s.setQueue q).sessionCounter = s.sessionCounter := rfl
@[simp] theorem setQueue_directory (q : List CommitJob) : (s.setQueue q).directory = s.directory := rfl
@[simp] theorem setQueue_commit (q : List CommitJob) : (s.setQueue q).commit = { s.commit with queue := q } := rfl
@[simp] theorem setQueue_reclaim (q : List CommitJob) : (s.setQueue q).reclaim = s.reclaim := rfl
@[simp] theorem setQueue_array (q : List CommitJob) : (s.setQueue q).array = s.array := rfl
@[simp] theorem setQueue_mount (q : List CommitJob) : (s.setQueue q).mount = s.mount := rfl
@[simp] theorem setQueue_supply (q : List CommitJob) : (s.setQueue q).supply = s.supply := rfl
@[simp] theorem setQueue_freeCount (q : List CommitJob) : (s.setQueue q).freeCount = s.freeCount := rfl
@[simp] theorem setQueue_link (q : List CommitJob) (x : Link) : (s.setQueue q).link x = s.link x := rfl
@[simp] theorem setQueue_row (q : List CommitJob) (x : Link) : (s.setQueue q).row x = s.row x := rfl
@[simp] theorem setQueue_noticeQueue (q : List CommitJob) (x : Link) : (s.setQueue q).noticeQueue x = s.noticeQueue x := rfl
@[simp] theorem setQueue_sec (q : List CommitJob) (x : Sector) : (s.setQueue q).sec x = s.sec x := rfl

/-! #### setNextTxn -/

@[simp] theorem setNextTxn_pending (n : Word) : (s.setNextTxn n).pending = s.pending := rfl
@[simp] theorem setNextTxn_pins (n : Word) : (s.setNextTxn n).pins = s.pins := rfl
@[simp] theorem setNextTxn_byteRate (n : Word) : (s.setNextTxn n).byteRate = s.byteRate := rfl
@[simp] theorem setNextTxn_links (n : Word) : (s.setNextTxn n).links = s.links := rfl
@[simp] theorem setNextTxn_notices (n : Word) : (s.setNextTxn n).notices = s.notices := rfl
@[simp] theorem setNextTxn_sessions (n : Word) : (s.setNextTxn n).sessions = s.sessions := rfl
@[simp] theorem setNextTxn_sessionCounter (n : Word) : (s.setNextTxn n).sessionCounter = s.sessionCounter := rfl
@[simp] theorem setNextTxn_directory (n : Word) : (s.setNextTxn n).directory = s.directory := rfl
@[simp] theorem setNextTxn_commit (n : Word) : (s.setNextTxn n).commit = { s.commit with nextTxn := n } := rfl
@[simp] theorem setNextTxn_reclaim (n : Word) : (s.setNextTxn n).reclaim = s.reclaim := rfl
@[simp] theorem setNextTxn_array (n : Word) : (s.setNextTxn n).array = s.array := rfl
@[simp] theorem setNextTxn_mount (n : Word) : (s.setNextTxn n).mount = s.mount := rfl
@[simp] theorem setNextTxn_supply (n : Word) : (s.setNextTxn n).supply = s.supply := rfl
@[simp] theorem setNextTxn_freeCount (n : Word) : (s.setNextTxn n).freeCount = s.freeCount := rfl
@[simp] theorem setNextTxn_link (n : Word) (x : Link) : (s.setNextTxn n).link x = s.link x := rfl
@[simp] theorem setNextTxn_row (n : Word) (x : Link) : (s.setNextTxn n).row x = s.row x := rfl
@[simp] theorem setNextTxn_noticeQueue (n : Word) (x : Link) : (s.setNextTxn n).noticeQueue x = s.noticeQueue x := rfl
@[simp] theorem setNextTxn_sec (n : Word) (x : Sector) : (s.setNextTxn n).sec x = s.sec x := rfl

/-! #### setTable -/

@[simp] theorem setTable_pending (t : SectorTable) : (s.setTable t).pending = s.pending := rfl
@[simp] theorem setTable_pins (t : SectorTable) : (s.setTable t).pins = s.pins := rfl
@[simp] theorem setTable_byteRate (t : SectorTable) : (s.setTable t).byteRate = s.byteRate := rfl
@[simp] theorem setTable_links (t : SectorTable) : (s.setTable t).links = s.links := rfl
@[simp] theorem setTable_notices (t : SectorTable) : (s.setTable t).notices = s.notices := rfl
@[simp] theorem setTable_sessions (t : SectorTable) : (s.setTable t).sessions = s.sessions := rfl
@[simp] theorem setTable_sessionCounter (t : SectorTable) : (s.setTable t).sessionCounter = s.sessionCounter := rfl
@[simp] theorem setTable_directory (t : SectorTable) : (s.setTable t).directory = s.directory := rfl
@[simp] theorem setTable_commit (t : SectorTable) : (s.setTable t).commit = s.commit := rfl
@[simp] theorem setTable_reclaim (t : SectorTable) : (s.setTable t).reclaim = s.reclaim := rfl
@[simp] theorem setTable_array (t : SectorTable) : (s.setTable t).array = { s.array with table := t } := rfl
@[simp] theorem setTable_mount (t : SectorTable) : (s.setTable t).mount = s.mount := rfl
@[simp] theorem setTable_supply (t : SectorTable) : (s.setTable t).supply = s.supply := rfl
@[simp] theorem setTable_freeCount (t : SectorTable) : (s.setTable t).freeCount = s.freeCount := rfl
@[simp] theorem setTable_link (t : SectorTable) (x : Link) : (s.setTable t).link x = s.link x := rfl
@[simp] theorem setTable_row (t : SectorTable) (x : Link) : (s.setTable t).row x = s.row x := rfl
@[simp] theorem setTable_noticeQueue (t : SectorTable) (x : Link) : (s.setTable t).noticeQueue x = s.noticeQueue x := rfl

/-! #### setMem -/

@[simp] theorem setMem_pending (m : Memory) : (s.setMem m).pending = s.pending := rfl
@[simp] theorem setMem_pins (m : Memory) : (s.setMem m).pins = s.pins := rfl
@[simp] theorem setMem_byteRate (m : Memory) : (s.setMem m).byteRate = s.byteRate := rfl
@[simp] theorem setMem_links (m : Memory) : (s.setMem m).links = s.links := rfl
@[simp] theorem setMem_notices (m : Memory) : (s.setMem m).notices = s.notices := rfl
@[simp] theorem setMem_sessions (m : Memory) : (s.setMem m).sessions = s.sessions := rfl
@[simp] theorem setMem_sessionCounter (m : Memory) : (s.setMem m).sessionCounter = s.sessionCounter := rfl
@[simp] theorem setMem_directory (m : Memory) : (s.setMem m).directory = s.directory := rfl
@[simp] theorem setMem_commit (m : Memory) : (s.setMem m).commit = s.commit := rfl
@[simp] theorem setMem_reclaim (m : Memory) : (s.setMem m).reclaim = s.reclaim := rfl
@[simp] theorem setMem_array (m : Memory) : (s.setMem m).array = { s.array with mem := m } := rfl
@[simp] theorem setMem_mount (m : Memory) : (s.setMem m).mount = s.mount := rfl
@[simp] theorem setMem_supply (m : Memory) : (s.setMem m).supply = s.supply := rfl
@[simp] theorem setMem_freeCount (m : Memory) : (s.setMem m).freeCount = s.freeCount := rfl
@[simp] theorem setMem_link (m : Memory) (x : Link) : (s.setMem m).link x = s.link x := rfl
@[simp] theorem setMem_row (m : Memory) (x : Link) : (s.setMem m).row x = s.row x := rfl
@[simp] theorem setMem_noticeQueue (m : Memory) (x : Link) : (s.setMem m).noticeQueue x = s.noticeQueue x := rfl
@[simp] theorem setMem_sec (m : Memory) (x : Sector) : (s.setMem m).sec x = s.sec x := rfl

/-! #### setSec -/

@[simp] theorem setSec_pending (j : Sector) (r : SectorRow) : (s.setSec j r).pending = s.pending := rfl
@[simp] theorem setSec_pins (j : Sector) (r : SectorRow) : (s.setSec j r).pins = s.pins := rfl
@[simp] theorem setSec_byteRate (j : Sector) (r : SectorRow) : (s.setSec j r).byteRate = s.byteRate := rfl
@[simp] theorem setSec_links (j : Sector) (r : SectorRow) : (s.setSec j r).links = s.links := rfl
@[simp] theorem setSec_notices (j : Sector) (r : SectorRow) : (s.setSec j r).notices = s.notices := rfl
@[simp] theorem setSec_sessions (j : Sector) (r : SectorRow) : (s.setSec j r).sessions = s.sessions := rfl
@[simp] theorem setSec_sessionCounter (j : Sector) (r : SectorRow) : (s.setSec j r).sessionCounter = s.sessionCounter := rfl
@[simp] theorem setSec_directory (j : Sector) (r : SectorRow) : (s.setSec j r).directory = s.directory := rfl
@[simp] theorem setSec_commit (j : Sector) (r : SectorRow) : (s.setSec j r).commit = s.commit := rfl
@[simp] theorem setSec_reclaim (j : Sector) (r : SectorRow) : (s.setSec j r).reclaim = s.reclaim := rfl
@[simp] theorem setSec_array (j : Sector) (r : SectorRow) : (s.setSec j r).array = { s.array with table := s.array.table.set j.val r j.isLt } := rfl
@[simp] theorem setSec_mount (j : Sector) (r : SectorRow) : (s.setSec j r).mount = s.mount := rfl
@[simp] theorem setSec_supply (j : Sector) (r : SectorRow) : (s.setSec j r).supply = s.supply := rfl
@[simp] theorem setSec_freeCount (j : Sector) (r : SectorRow) : (s.setSec j r).freeCount = s.freeCount := rfl
@[simp] theorem setSec_link (j : Sector) (r : SectorRow) (x : Link) : (s.setSec j r).link x = s.link x := rfl
@[simp] theorem setSec_row (j : Sector) (r : SectorRow) (x : Link) : (s.setSec j r).row x = s.row x := rfl
@[simp] theorem setSec_noticeQueue (j : Sector) (r : SectorRow) (x : Link) : (s.setSec j r).noticeQueue x = s.noticeQueue x := rfl

/-! #### setTenancy -/

@[simp] theorem setTenancy_pending (t : Tenancy) : (s.setTenancy t).pending = s.pending := rfl
@[simp] theorem setTenancy_pins (t : Tenancy) : (s.setTenancy t).pins = s.pins := rfl
@[simp] theorem setTenancy_byteRate (t : Tenancy) : (s.setTenancy t).byteRate = s.byteRate := rfl
@[simp] theorem setTenancy_links (t : Tenancy) : (s.setTenancy t).links = s.links := rfl
@[simp] theorem setTenancy_notices (t : Tenancy) : (s.setTenancy t).notices = s.notices := rfl
@[simp] theorem setTenancy_sessions (t : Tenancy) : (s.setTenancy t).sessions = s.sessions := rfl
@[simp] theorem setTenancy_sessionCounter (t : Tenancy) : (s.setTenancy t).sessionCounter = s.sessionCounter := rfl
@[simp] theorem setTenancy_directory (t : Tenancy) : (s.setTenancy t).directory = s.directory := rfl
@[simp] theorem setTenancy_commit (t : Tenancy) : (s.setTenancy t).commit = s.commit := rfl
@[simp] theorem setTenancy_reclaim (t : Tenancy) : (s.setTenancy t).reclaim = s.reclaim := rfl
@[simp] theorem setTenancy_array (t : Tenancy) : (s.setTenancy t).array = { s.array with tenancy := t } := rfl
@[simp] theorem setTenancy_mount (t : Tenancy) : (s.setTenancy t).mount = s.mount := rfl
@[simp] theorem setTenancy_supply (t : Tenancy) : (s.setTenancy t).supply = s.supply := rfl
@[simp] theorem setTenancy_freeCount (t : Tenancy) : (s.setTenancy t).freeCount = s.freeCount := rfl
@[simp] theorem setTenancy_link (t : Tenancy) (x : Link) : (s.setTenancy t).link x = s.link x := rfl
@[simp] theorem setTenancy_row (t : Tenancy) (x : Link) : (s.setTenancy t).row x = s.row x := rfl
@[simp] theorem setTenancy_noticeQueue (t : Tenancy) (x : Link) : (s.setTenancy t).noticeQueue x = s.noticeQueue x := rfl
@[simp] theorem setTenancy_sec (t : Tenancy) (x : Sector) : (s.setTenancy t).sec x = s.sec x := rfl

/-! #### setEpoch -/

@[simp] theorem setEpoch_pending (e : Option Word) : (s.setEpoch e).pending = s.pending := rfl
@[simp] theorem setEpoch_pins (e : Option Word) : (s.setEpoch e).pins = s.pins := rfl
@[simp] theorem setEpoch_byteRate (e : Option Word) : (s.setEpoch e).byteRate = s.byteRate := rfl
@[simp] theorem setEpoch_links (e : Option Word) : (s.setEpoch e).links = s.links := rfl
@[simp] theorem setEpoch_notices (e : Option Word) : (s.setEpoch e).notices = s.notices := rfl
@[simp] theorem setEpoch_sessions (e : Option Word) : (s.setEpoch e).sessions = s.sessions := rfl
@[simp] theorem setEpoch_sessionCounter (e : Option Word) : (s.setEpoch e).sessionCounter = s.sessionCounter := rfl
@[simp] theorem setEpoch_directory (e : Option Word) : (s.setEpoch e).directory = s.directory := rfl
@[simp] theorem setEpoch_commit (e : Option Word) : (s.setEpoch e).commit = s.commit := rfl
@[simp] theorem setEpoch_reclaim (e : Option Word) : (s.setEpoch e).reclaim = s.reclaim := rfl
@[simp] theorem setEpoch_array (e : Option Word) : (s.setEpoch e).array = { s.array with epoch := e } := rfl
@[simp] theorem setEpoch_mount (e : Option Word) : (s.setEpoch e).mount = s.mount := rfl
@[simp] theorem setEpoch_supply (e : Option Word) : (s.setEpoch e).supply = s.supply := rfl
@[simp] theorem setEpoch_freeCount (e : Option Word) : (s.setEpoch e).freeCount = s.freeCount := rfl
@[simp] theorem setEpoch_link (e : Option Word) (x : Link) : (s.setEpoch e).link x = s.link x := rfl
@[simp] theorem setEpoch_row (e : Option Word) (x : Link) : (s.setEpoch e).row x = s.row x := rfl
@[simp] theorem setEpoch_noticeQueue (e : Option Word) (x : Link) : (s.setEpoch e).noticeQueue x = s.noticeQueue x := rfl
@[simp] theorem setEpoch_sec (e : Option Word) (x : Sector) : (s.setEpoch e).sec x = s.sec x := rfl

/-! #### setNextSeq -/

@[simp] theorem setNextSeq_pending (n : Word) : (s.setNextSeq n).pending = s.pending := rfl
@[simp] theorem setNextSeq_pins (n : Word) : (s.setNextSeq n).pins = s.pins := rfl
@[simp] theorem setNextSeq_byteRate (n : Word) : (s.setNextSeq n).byteRate = s.byteRate := rfl
@[simp] theorem setNextSeq_links (n : Word) : (s.setNextSeq n).links = s.links := rfl
@[simp] theorem setNextSeq_notices (n : Word) : (s.setNextSeq n).notices = s.notices := rfl
@[simp] theorem setNextSeq_sessions (n : Word) : (s.setNextSeq n).sessions = s.sessions := rfl
@[simp] theorem setNextSeq_sessionCounter (n : Word) : (s.setNextSeq n).sessionCounter = s.sessionCounter := rfl
@[simp] theorem setNextSeq_directory (n : Word) : (s.setNextSeq n).directory = s.directory := rfl
@[simp] theorem setNextSeq_commit (n : Word) : (s.setNextSeq n).commit = s.commit := rfl
@[simp] theorem setNextSeq_reclaim (n : Word) : (s.setNextSeq n).reclaim = s.reclaim := rfl
@[simp] theorem setNextSeq_array (n : Word) : (s.setNextSeq n).array = { s.array with nextSeq := n } := rfl
@[simp] theorem setNextSeq_mount (n : Word) : (s.setNextSeq n).mount = s.mount := rfl
@[simp] theorem setNextSeq_supply (n : Word) : (s.setNextSeq n).supply = s.supply := rfl
@[simp] theorem setNextSeq_freeCount (n : Word) : (s.setNextSeq n).freeCount = s.freeCount := rfl
@[simp] theorem setNextSeq_link (n : Word) (x : Link) : (s.setNextSeq n).link x = s.link x := rfl
@[simp] theorem setNextSeq_row (n : Word) (x : Link) : (s.setNextSeq n).row x = s.row x := rfl
@[simp] theorem setNextSeq_noticeQueue (n : Word) (x : Link) : (s.setNextSeq n).noticeQueue x = s.noticeQueue x := rfl
@[simp] theorem setNextSeq_sec (n : Word) (x : Sector) : (s.setNextSeq n).sec x = s.sec x := rfl

/-! #### setRetired -/

@[simp] theorem setRetired_pending (r : BitVec 48) (b : Bool) : (s.setRetired r b).pending = s.pending := rfl
@[simp] theorem setRetired_pins (r : BitVec 48) (b : Bool) : (s.setRetired r b).pins = s.pins := rfl
@[simp] theorem setRetired_byteRate (r : BitVec 48) (b : Bool) : (s.setRetired r b).byteRate = s.byteRate := rfl
@[simp] theorem setRetired_links (r : BitVec 48) (b : Bool) : (s.setRetired r b).links = s.links := rfl
@[simp] theorem setRetired_notices (r : BitVec 48) (b : Bool) : (s.setRetired r b).notices = s.notices := rfl
@[simp] theorem setRetired_sessions (r : BitVec 48) (b : Bool) : (s.setRetired r b).sessions = s.sessions := rfl
@[simp] theorem setRetired_sessionCounter (r : BitVec 48) (b : Bool) : (s.setRetired r b).sessionCounter = s.sessionCounter := rfl
@[simp] theorem setRetired_directory (r : BitVec 48) (b : Bool) : (s.setRetired r b).directory = s.directory := rfl
@[simp] theorem setRetired_commit (r : BitVec 48) (b : Bool) : (s.setRetired r b).commit = s.commit := rfl
@[simp] theorem setRetired_reclaim (r : BitVec 48) (b : Bool) : (s.setRetired r b).reclaim = s.reclaim := rfl
@[simp] theorem setRetired_array (r : BitVec 48) (b : Bool) : (s.setRetired r b).array = { s.array with retiredSet := r, recorded := b } := rfl
@[simp] theorem setRetired_mount (r : BitVec 48) (b : Bool) : (s.setRetired r b).mount = s.mount := rfl
@[simp] theorem setRetired_supply (r : BitVec 48) (b : Bool) : (s.setRetired r b).supply = s.supply := rfl
@[simp] theorem setRetired_freeCount (r : BitVec 48) (b : Bool) : (s.setRetired r b).freeCount = s.freeCount := rfl
@[simp] theorem setRetired_link (r : BitVec 48) (b : Bool) (x : Link) : (s.setRetired r b).link x = s.link x := rfl
@[simp] theorem setRetired_row (r : BitVec 48) (b : Bool) (x : Link) : (s.setRetired r b).row x = s.row x := rfl
@[simp] theorem setRetired_noticeQueue (r : BitVec 48) (b : Bool) (x : Link) : (s.setRetired r b).noticeQueue x = s.noticeQueue x := rfl
@[simp] theorem setRetired_sec (r : BitVec 48) (b : Bool) (x : Sector) : (s.setRetired r b).sec x = s.sec x := rfl

/-! #### startOp -/

@[simp] theorem startOp_pending (o : ArrayOp) : (s.startOp o).pending = s.pending := rfl
@[simp] theorem startOp_pins (o : ArrayOp) : (s.startOp o).pins = s.pins := rfl
@[simp] theorem startOp_byteRate (o : ArrayOp) : (s.startOp o).byteRate = s.byteRate := rfl
@[simp] theorem startOp_links (o : ArrayOp) : (s.startOp o).links = s.links := rfl
@[simp] theorem startOp_notices (o : ArrayOp) : (s.startOp o).notices = s.notices := rfl
@[simp] theorem startOp_sessions (o : ArrayOp) : (s.startOp o).sessions = s.sessions := rfl
@[simp] theorem startOp_sessionCounter (o : ArrayOp) : (s.startOp o).sessionCounter = s.sessionCounter := rfl
@[simp] theorem startOp_directory (o : ArrayOp) : (s.startOp o).directory = s.directory := rfl
@[simp] theorem startOp_commit (o : ArrayOp) : (s.startOp o).commit = s.commit := rfl
@[simp] theorem startOp_reclaim (o : ArrayOp) : (s.startOp o).reclaim = s.reclaim := rfl
@[simp] theorem startOp_array (o : ArrayOp) : (s.startOp o).array = { s.array with op := some o, opTimer := 0 } := rfl
@[simp] theorem startOp_mount (o : ArrayOp) : (s.startOp o).mount = s.mount := rfl
@[simp] theorem startOp_supply (o : ArrayOp) : (s.startOp o).supply = s.supply := rfl
@[simp] theorem startOp_freeCount (o : ArrayOp) : (s.startOp o).freeCount = s.freeCount := rfl
@[simp] theorem startOp_link (o : ArrayOp) (x : Link) : (s.startOp o).link x = s.link x := rfl
@[simp] theorem startOp_row (o : ArrayOp) (x : Link) : (s.startOp o).row x = s.row x := rfl
@[simp] theorem startOp_noticeQueue (o : ArrayOp) (x : Link) : (s.startOp o).noticeQueue x = s.noticeQueue x := rfl
@[simp] theorem startOp_sec (o : ArrayOp) (x : Sector) : (s.startOp o).sec x = s.sec x := rfl

/-! #### clearOp -/

@[simp] theorem clearOp_pending : (s.clearOp).pending = s.pending := rfl
@[simp] theorem clearOp_pins : (s.clearOp).pins = s.pins := rfl
@[simp] theorem clearOp_byteRate : (s.clearOp).byteRate = s.byteRate := rfl
@[simp] theorem clearOp_links : (s.clearOp).links = s.links := rfl
@[simp] theorem clearOp_notices : (s.clearOp).notices = s.notices := rfl
@[simp] theorem clearOp_sessions : (s.clearOp).sessions = s.sessions := rfl
@[simp] theorem clearOp_sessionCounter : (s.clearOp).sessionCounter = s.sessionCounter := rfl
@[simp] theorem clearOp_directory : (s.clearOp).directory = s.directory := rfl
@[simp] theorem clearOp_commit : (s.clearOp).commit = s.commit := rfl
@[simp] theorem clearOp_reclaim : (s.clearOp).reclaim = s.reclaim := rfl
@[simp] theorem clearOp_array : (s.clearOp).array = { s.array with op := none, opTimer := 0 } := rfl
@[simp] theorem clearOp_mount : (s.clearOp).mount = s.mount := rfl
@[simp] theorem clearOp_supply : (s.clearOp).supply = s.supply := rfl
@[simp] theorem clearOp_freeCount : (s.clearOp).freeCount = s.freeCount := rfl
@[simp] theorem clearOp_link (x : Link) : (s.clearOp).link x = s.link x := rfl
@[simp] theorem clearOp_row (x : Link) : (s.clearOp).row x = s.row x := rfl
@[simp] theorem clearOp_noticeQueue (x : Link) : (s.clearOp).noticeQueue x = s.noticeQueue x := rfl
@[simp] theorem clearOp_sec (x : Sector) : (s.clearOp).sec x = s.sec x := rfl

/-! #### setMode -/

@[simp] theorem setMode_pending (m : StoreMode) : (s.setMode m).pending = s.pending := rfl
@[simp] theorem setMode_pins (m : StoreMode) : (s.setMode m).pins = s.pins := rfl
@[simp] theorem setMode_byteRate (m : StoreMode) : (s.setMode m).byteRate = s.byteRate := rfl
@[simp] theorem setMode_links (m : StoreMode) : (s.setMode m).links = s.links := rfl
@[simp] theorem setMode_notices (m : StoreMode) : (s.setMode m).notices = s.notices := rfl
@[simp] theorem setMode_sessions (m : StoreMode) : (s.setMode m).sessions = s.sessions := rfl
@[simp] theorem setMode_sessionCounter (m : StoreMode) : (s.setMode m).sessionCounter = s.sessionCounter := rfl
@[simp] theorem setMode_directory (m : StoreMode) : (s.setMode m).directory = s.directory := rfl
@[simp] theorem setMode_commit (m : StoreMode) : (s.setMode m).commit = s.commit := rfl
@[simp] theorem setMode_reclaim (m : StoreMode) : (s.setMode m).reclaim = s.reclaim := rfl
@[simp] theorem setMode_array (m : StoreMode) : (s.setMode m).array = s.array := rfl
@[simp] theorem setMode_mount (m : StoreMode) : (s.setMode m).mount = { s.mount with mode := m } := rfl
@[simp] theorem setMode_supply (m : StoreMode) : (s.setMode m).supply = s.supply := rfl
@[simp] theorem setMode_freeCount (m : StoreMode) : (s.setMode m).freeCount = s.freeCount := rfl
@[simp] theorem setMode_link (m : StoreMode) (x : Link) : (s.setMode m).link x = s.link x := rfl
@[simp] theorem setMode_row (m : StoreMode) (x : Link) : (s.setMode m).row x = s.row x := rfl
@[simp] theorem setMode_noticeQueue (m : StoreMode) (x : Link) : (s.setMode m).noticeQueue x = s.noticeQueue x := rfl
@[simp] theorem setMode_sec (m : StoreMode) (x : Sector) : (s.setMode m).sec x = s.sec x := rfl

/-! #### What the accessors read where an update wrote -/

theorem setLink_link (l x : Link) (k : LinkState) : (s.setLink l k).link x = if x = l then k else s.link x := by
  cases l <;> cases x <;> rfl

@[simp] theorem setLink_link_self (l : Link) (k : LinkState) : (s.setLink l k).link l = k := by
  cases l <;> rfl

theorem setRow_row (l x : Link) (r : SessionRow) : (s.setRow l r).row x = if x = l then r else s.row x := by
  cases l <;> cases x <;> rfl

@[simp] theorem setRow_row_self (l : Link) (r : SessionRow) : (s.setRow l r).row l = r := by
  cases l <;> rfl

theorem setNotices_noticeQueue (l x : Link) (q : List Notice) :
    (s.setNotices l q).noticeQueue x = if x = l then { entries := q, attn := !q.isEmpty } else s.noticeQueue x := by
  cases l <;> cases x <;> rfl

@[simp] theorem setNotices_noticeQueue_self (l : Link) (q : List Notice) :
    (s.setNotices l q).noticeQueue l = { entries := q, attn := !q.isEmpty } := by
  cases l <;> rfl

@[simp] theorem setTable_sec (t : SectorTable) (i : Sector) : (s.setTable t).sec i = t[i.val] := rfl

theorem setSec_sec (i k : Sector) (r : SectorRow) : (s.setSec i r).sec k = if k = i then r else s.sec k := by
  simp only [setSec, setTable_sec, Vector.getElem_set, Fin.val_inj, eq_comm (a := i)]
  rfl

@[simp] theorem setSec_sec_self (i : Sector) (r : SectorRow) : (s.setSec i r).sec i = r := by
  simp [setSec_sec]

/-- A row written back as it is changes nothing. -/
@[simp] theorem setRow_row_same (l : Link) : s.setRow l (s.row l) = s := by
  cases l <;> rfl

@[simp] theorem setLink_link_same (l : Link) : s.setLink l (s.link l) = s := by
  cases l <;> rfl

@[simp] theorem setLink_setLink (l : Link) (k k' : LinkState) : (s.setLink l k).setLink l k' = s.setLink l k' := by
  cases l <;> rfl

@[simp] theorem setRow_setRow (l : Link) (r r' : SessionRow) : (s.setRow l r).setRow l r' = s.setRow l r' := by
  cases l <;> rfl

@[simp] theorem setReclaim_setReclaim (r r' : Reclaimer) : (s.setReclaim r).setReclaim r' = s.setReclaim r' := rfl
@[simp] theorem setMount_setMount (m m' : MountUnit) : (s.setMount m).setMount m' = s.setMount m' := rfl
@[simp] theorem setArray_setArray (a a' : ArrayUnit) : (s.setArray a).setArray a' = s.setArray a' := rfl
@[simp] theorem setCommit_setCommit (c c' : CommitEngine) : (s.setCommit c).setCommit c' = s.setCommit c' := rfl
@[simp] theorem setQueue_setQueue (q q' : List CommitJob) : (s.setQueue q).setQueue q' = s.setQueue q' := rfl
@[simp] theorem setDirectory_setDirectory (d d' : List DirEntry) : (s.setDirectory d).setDirectory d' = s.setDirectory d' := rfl
@[simp] theorem setPins_setPins (p p' : Pins) : (s.setPins p).setPins p' = s.setPins p' := rfl
@[simp] theorem setTenancy_setTenancy (t t' : Tenancy) : (s.setTenancy t).setTenancy t' = s.setTenancy t' := rfl

@[simp] theorem setNotices_setNotices (l : Link) (q q' : List Notice) : (s.setNotices l q).setNotices l q' = s.setNotices l q' := by
  cases l <;> rfl

@[simp] theorem setSec_setSec (i : Sector) (r r' : SectorRow) : (s.setSec i r).setSec i r' = s.setSec i r' := by
  simp [setSec, setTable]

@[simp] theorem setRow_setLink (l x : Link) (k : LinkState) (r : SessionRow) :
    (s.setLink l k).setRow x r = (s.setRow x r).setLink l k := rfl

end Sys2Proof.Machine.State
end

