-- ==== Sys2Proof/Laws/Array.lean ====
section
/-!
SUPPORT. What the sector table alone decides, and what retirement, the release of stale counts, the commit queue and the arbiter leave
unchanged.
-/

namespace Sys2Proof.Machine.State

variable {s t : State}

/-! ### Readings of the sector table -/

theorem sec_congr (h : t.array.table = s.array.table) : t.sec = s.sec := by
  funext i
  simp only [sec, h]

theorem inState_congr (h : t.array.table = s.array.table) : t.inState = s.inState := by
  funext x i
  simp only [inState, sec_congr h]

theorem sectorsIn_congr (h : t.array.table = s.array.table) : t.sectorsIn = s.sectorsIn := by
  funext x
  simp only [sectorsIn, inState_congr h]

theorem countState_congr (h : t.array.table = s.array.table) : t.countState = s.countState := by
  funext x
  simp only [countState, sectorsIn_congr h]

theorem erasedCount_congr (h : t.array.table = s.array.table) : t.erasedCount = s.erasedCount := by
  simp only [erasedCount, countState_congr h]

theorem standing_congr (h : t.array.table = s.array.table) : t.standing = s.standing := by
  simp only [standing, countState_congr h]

theorem activeSector_congr (h : t.array.table = s.array.table) : t.activeSector = s.activeSector := by
  simp only [activeSector, inState_congr h]

theorem activeFree_congr (h : t.array.table = s.array.table) : t.activeFree = s.activeFree := by
  simp only [activeFree, activeSector_congr h, sec, h]

theorem totalWaste_congr (h : t.array.table = s.array.table) : t.totalWaste = s.totalWaste := by
  simp only [totalWaste, inState_congr h, sec, h]

theorem room_congr (h : t.array.table = s.array.table) : t.room = s.room := by
  simp only [room, activeFree_congr h, erasedCount_congr h, totalWaste_congr h]

theorem fits_congr (h : t.array.table = s.array.table) (l : List Nat) : t.fits l = s.fits l := by
  simp only [fits, activeFree_congr h, erasedCount_congr h]

theorem chooseErased_congr (h : t.array.table = s.array.table) : t.chooseErased = s.chooseErased := by
  simp only [chooseErased, sectorsIn_congr h, sec_congr h]

/-! ### The release of stale counts and retirement (R11, R42 to R44) -/

/-- A release changes stale counts of the directory and nothing else. -/
theorem release_eq (s : State) (l : List TallyItem) : s.release l = s.setDirectory (s.release l).directory := by
  unfold release
  induction l generalizing s with
  | nil => rfl
  | cons a l ih =>
    rw [List.foldl_cons, ih (s.releaseOne a)]
    rfl

theorem releaseAtRetirement_eq (s : State) (i : Sector) :
    s.releaseAtRetirement i = s.setDirectory (s.releaseAtRetirement i).directory := by
  unfold releaseAtRetirement
  split
  · exact release_eq _ _
  · rfl

@[simp] theorem releaseAtRetirement_array (s : State) (i : Sector) : (s.releaseAtRetirement i).array = s.array := by
  rw [releaseAtRetirement_eq]; rfl

@[simp] theorem releaseAtRetirement_mount (s : State) (i : Sector) : (s.releaseAtRetirement i).mount = s.mount := by
  rw [releaseAtRetirement_eq]; rfl

@[simp] theorem releaseAtRetirement_commit (s : State) (i : Sector) : (s.releaseAtRetirement i).commit = s.commit := by
  rw [releaseAtRetirement_eq]; rfl

@[simp] theorem releaseAtRetirement_reclaim (s : State) (i : Sector) : (s.releaseAtRetirement i).reclaim = s.reclaim := by
  rw [releaseAtRetirement_eq]; rfl

@[simp] theorem releaseAtRetirement_sec (s : State) (i k : Sector) : (s.releaseAtRetirement i).sec k = s.sec k := by
  rw [releaseAtRetirement_eq]; rfl

/-- The notices and the mode are all that the last step of a retirement can change. -/
theorem reconsiderMode_eq (s : State) :
    s.reconsiderMode = ({ s with notices := s.reconsiderMode.notices } : State).setMode s.reconsiderMode.mount.mode := by
  unfold reconsiderMode
  split <;> rfl

/-- A retirement (R42): the row, the retired set, and beside the array only the directory's stale counts, the notices and the mode. -/
theorem retire_array (s : State) (i : Sector) (r : WearReason) :
    (s.retire i r).array =
      ((s.setSec i { s.sec i with state := .retired, waste := 0 }).setRetired (s.array.retiredSet ||| (1#48 <<< i.val)) false).array := by
  unfold retire
  rw [reconsiderMode_eq]
  simp only [setMode_array, wearNotice, offerBoth, offerNotice, setNotices_array, addRetired, releaseAtRetirement_sec]
  simp [setSec, setTable]

theorem retire_sec (s : State) (i k : Sector) (r : WearReason) :
    (s.retire i r).sec k = if k = i then { s.sec i with state := .retired, waste := 0 } else s.sec k := by
  rw [sec, retire_array]
  exact setSec_sec s i k _

/-- The mode after a retirement (R44). -/
theorem reconsiderMode_mode (s : State) :
    s.reconsiderMode.mount.mode = if s.mount.mode = .ready ∧ s.standing < Config.minSectors then .readOnly else s.mount.mode := by
  unfold reconsiderMode
  by_cases h : s.mount.mode = .ready ∧ s.standing < Config.minSectors
  · rw [if_pos h, if_pos h]; simp [storeModeNotice, offerBoth, offerNotice]
  · rw [if_neg h, if_neg h]

/-- Of the mount unit a retirement changes the mode at most. -/
theorem retire_mount (s : State) (i : Sector) (r : WearReason) :
    (s.retire i r).mount = { s.mount with mode := (s.retire i r).mount.mode } := by
  unfold retire
  rw [reconsiderMode_eq]
  simp [setMode, wearNotice, offerBoth, offerNotice, addRetired]

@[simp] theorem retire_tenancy (s : State) (i : Sector) (r : WearReason) : (s.retire i r).array.tenancy = s.array.tenancy := by
  rw [retire_array]; rfl

@[simp] theorem retire_commit (s : State) (i : Sector) (r : WearReason) : (s.retire i r).commit = s.commit := by
  unfold retire
  rw [reconsiderMode_eq]
  simp [setMode, wearNotice, offerBoth, offerNotice, addRetired]

@[simp] theorem retire_reclaim (s : State) (i : Sector) (r : WearReason) : (s.retire i r).reclaim = s.reclaim := by
  unfold retire
  rw [reconsiderMode_eq]
  simp [setMode, wearNotice, offerBoth, offerNotice, addRetired]

/-- A retirement neither stops the part nor lets a stopped one go on (R44). -/
@[simp] theorem retire_stopped (s : State) (i : Sector) (r : WearReason) : (s.retire i r).stopped = s.stopped := by
  have h : (s.retire i r).mount.mode = s.mount.mode ∨ s.mount.mode = .ready ∧ (s.retire i r).mount.mode = .readOnly := by
    unfold retire
    dsimp only
    rw [reconsiderMode_mode]
    simp only [wearNotice, offerBoth, offerNotice, addRetired, setNotices_mount, setRetired_mount, setSec_mount, releaseAtRetirement_mount]
    split
    · rename_i h; exact .inr ⟨h.1, rfl⟩
    · exact .inl rfl
  unfold stopped
  rw [retire_mount]
  rcases h with h | ⟨h1, h2⟩
  · rw [h]
  · rw [h2, h1]; rfl

/-! ### The ends of an activation's program leave the holder as it is (R40) -/

theorem activationDone_frame (s : State) (i : Sector) :
    (s.activationDone i).stopped = s.stopped ∧ (s.activationDone i).array.tenancy = s.array.tenancy ∧ (s.activationDone i).commit = s.commit ∧
      (s.activationDone i).reclaim = s.reclaim := by
  unfold activationDone raiseSeq writeHead clearOp
  simp [stopped]

theorem activationFailed_frame (s : State) (i : Sector) :
    (s.activationFailed i).stopped = s.stopped ∧ (s.activationFailed i).array.tenancy = s.array.tenancy ∧
      (s.activationFailed i).commit = s.commit ∧ (s.activationFailed i).reclaim = s.reclaim := by
  unfold activationFailed
  rw [retire_stopped, retire_tenancy, retire_commit, retire_reclaim]
  unfold scribbleUnits raiseSeq clearOp
  simp [stopped, scribble]

/-! ### The ends of erase steps (R33, R41) -/

@[simp] theorem raiseEraseCount_array (s : State) (i : Sector) :
    (s.raiseEraseCount i).array = (s.setSec i { s.sec i with eraseCount := (s.sec i).eraseCount + 1 }).array := by
  unfold raiseEraseCount
  dsimp only
  generalize Config.wearNotice = n
  split <;> simp [wearNotice, offerBoth, offerNotice]

@[simp] theorem raiseEraseCount_mount (s : State) (i : Sector) : (s.raiseEraseCount i).mount = s.mount := by
  unfold raiseEraseCount
  dsimp only
  generalize Config.wearNotice = n
  split <;> simp [wearNotice, offerBoth, offerNotice]

theorem raiseEraseCount_sec (s : State) (i k : Sector) :
    (s.raiseEraseCount i).sec k = if k = i then { s.sec i with eraseCount := (s.sec i).eraseCount + 1 } else s.sec k := by
  unfold raiseEraseCount
  dsimp only
  generalize Config.wearNotice = n
  split <;> simp [wearNotice, offerBoth, offerNotice, setSec_sec]

@[simp] theorem scribbleUnits_sec (s : State) (i k : Sector) (u n : Nat) : (s.scribbleUnits i u n).sec k = s.sec k := rfl

@[simp] theorem scribbleUnits_array (s : State) (i : Sector) (u n : Nat) :
    (s.scribbleUnits i u n).array =
      { s.array with mem := Memory.writeBytes s.array.mem (unitAddress i u) (s.freeBytes (n * 16)) } := rfl

theorem eraseStepFailed_sec (s : State) (i k : Sector) (r : WearReason) :
    (s.eraseStepFailed i r).sec k =
      if k = i then { s.sec i with state := .retired, waste := 0, eraseCount := (s.sec i).eraseCount + 1 } else s.sec k := by
  unfold eraseStepFailed
  generalize Config.sectorUnits = n
  rw [scribbleUnits_sec, retire_sec, raiseEraseCount_sec, if_pos rfl]
  split
  · rfl
  · rename_i h
    rw [raiseEraseCount_sec, if_neg h, clearOp_sec]

/-! ### The commit queue (R89) -/

/-- The job of the head changes where no other job is of its link. -/
theorem setJob_head {j j' : CommitJob} {others : List CommitJob} (h : s.commit.queue = j :: others)
    (ho : ∀ x ∈ others, x.link ≠ j.link) (hl : j'.link = j.link) : s.setJob j' = s.setQueue (j' :: others) := by
  unfold setJob
  rw [h, List.map_cons, if_pos hl.symm, List.map_congr_left (g := id), List.map_id]
  intro x hx
  rw [hl, if_neg (ho x hx)]
  rfl

theorem jobOf_none {l : Link} : s.jobOf l = none ↔ ∀ j ∈ s.commit.queue, j.link ≠ l := by
  simp [jobOf, List.find?_eq_none]

/-! ### The end of a cycle (R118) -/

/-- Waiting jobs claim again, the cycle's own fields are at rest, and the reclaimer claims anew or is IDLE; nothing else changes. -/
theorem endCycle_eq (s : State) : ∃ x, (x = .claimMove ∨ x = .idle) ∧
    s.endCycle = s.requeueWaiting.setReclaim
      { s.reclaim with state := x, victim := none, openTxn := none, tally := [], relocated := [], walkUnit := 2, copyFailures := 0 } := by
  unfold endCycle
  dsimp only
  split
  · exact ⟨.claimMove, .inl rfl, rfl⟩
  · split
    · exact ⟨.claimMove, .inl rfl, rfl⟩
    · exact ⟨.idle, .inr rfl, rfl⟩

/-! ### The arbiter (R47) -/

/-- While the array is held nothing is granted. -/
theorem settle_held (h : s.array.tenancy ≠ .none) : s.settle = s := by
  unfold settle settleFor
  rw [if_neg]
  simp [h]

theorem settle_stopped (h : s.stopped = true) : s.settle = s := by
  unfold settle settleFor
  rw [if_neg]
  simp [h]

theorem settle_unclaimed (h : s.nextClaim = none) : s.settle = s := by
  unfold settle settleFor
  rw [h]
  split <;> rfl

end Sys2Proof.Machine.State
end

