-- ==== Sys2Proof/Laws/Moves.lean ====
section
/-!
SUPPORT. Everything a command can do, said once: `Move` lists the guarded changes that the part is built from, `Moves` is a run of them, and
each shared operation is shown to be such a run. A law of the part that every `Move` keeps is kept by every step.
-/

namespace Sys2Proof.Laws

open Sys2Proof.Machine Sys2Proof.Safety

/-- No sector is ACTIVE. -/
def NoActive (s : State) : Prop :=
  ∀ i, s.inState .active i = false

/-- One change of one part of the state, with what guards it. The one guard that rests on a law of the state it starts from (law 3 at a further
activation) is asked for where `g` holds. -/
inductive Move (g : Prop) : State → State → Prop
  | pins (s : State) (p : Pins) : Move g s (s.setPins p)
  /-- R178: a reply queue grows only while a place is free, and its transmit line follows it or is at mark. -/
  | link (s : State) (l : Link) (k : LinkState) (h : k.repliesTaken ≤ 4 ∨ k.repliesTaken ≤ (s.link l).repliesTaken)
      (ht : TransmitLawOf k ∨ (k.tx = (s.link l).tx ∧ k.replies = (s.link l).replies)) : Move g s (s.setLink l k)
  /-- R161. -/
  | offer (s : State) (l : Link) (kind : NoticeKind) (subject : Half) (detail : Word) (h : kind ≠ .lost) :
      Move g s (s.offerNotice l kind subject detail)
  /-- R164. -/
  | seen (s : State) (l : Link) : Move g s (s.setNotices l ((s.noticeQueue l).entries.map fun n => { n with seen := true }))
  /-- R165, and every emptying of a queue. -/
  | ack (s : State) (l : Link) (n : Nat) : Move g s (s.setNotices l ((s.noticeQueue l).entries.drop n))
  | counter (s : State) (n : Half) : Move g s (s.setSessionCounter n)
  /-- A row changes with its staging kept or emptied; a new number is not the other row's (R50). -/
  | row (s : State) (l : Link) (r : SessionRow)
      (hn : r.number = none ∨ r.number = (s.row l).number ∨ r.number ≠ (s.row l.other).number)
      (hs : r.staging = [] ∨ r.staging = (s.row l).staging) : Move g s (s.setRow l r)
  /-- R69, R72: an entry is staged where the pool has room. -/
  | stage (s : State) (l : Link) (e : StagedEntry) (hb : bodyInLimits e = true)
      (hn : findStaged (s.row l).staging e.key = none → (s.row l).staging.length < 16 ∧ 1 ≤ s.poolFreeSlots)
      (hr : e.bytes ≤ s.poolFreeBytes + ((findStaged (s.row l).staging e.key).map StagedEntry.bytes).getD 0) :
      Move g s (s.setStaging l (stage (s.row l).staging e))
  /-- R76, R77: bytes join a staged body. -/
  | append (s : State) (l : Link) (key : Key) (cls : RecClass) (expected : Option Word) (body more : List Byte) (m n : Nat)
      (hf : findStaged (s.row l).staging key = some { key := key, op := .put cls expected body m }) (hc : cls ≠ .counter)
      (hb : more.length ≤ 496 - body.length) (hr : more.length ≤ s.poolFreeBytes) :
      Move g s (s.setStaging l (Machine.stage (s.row l).staging { key := key, op := .put cls expected (body ++ more) n }))
  /-- R79: a staged counter takes another value. -/
  | sum (s : State) (l : Link) (key : Key) (expected : Option Word) (body : List Byte) (m n : Nat) (v : Word)
      (hf : findStaged (s.row l).staging key = some { key := key, op := .put .counter expected body m }) :
      Move g s (s.setStaging l (Machine.stage (s.row l).staging { key := key, op := .put .counter expected (be32 v) n }))
  | unstage (s : State) (l : Link) (k : Key) : Move g s (s.setStaging l (unstage (s.row l).staging k))
  | dirPut (s : State) (e : DirEntry) : Move g s (s.setDirectory (Directory.put s.directory e))
  | dirMap (s : State) (f : DirEntry → DirEntry) (h : ∀ e, (f e).key = e.key) : Move g s (s.setDirectory (s.directory.map f))
  | dirFilter (s : State) (p : DirEntry → Bool) : Move g s (s.setDirectory (s.directory.filter p))
  | queueMap (s : State) (f : CommitJob → CommitJob) (h : ∀ j, (f j).link = j.link) : Move g s (s.setQueue (s.commit.queue.map f))
  | queueFilter (s : State) (p : CommitJob → Bool) : Move g s (s.setQueue (s.commit.queue.filter p))
  /-- R87, R89: a job joins only where its link has none. -/
  | queueAdd (s : State) (j : CommitJob) (h : ∀ x ∈ s.commit.queue, x.link ≠ j.link) : Move g s (s.setQueue (s.commit.queue ++ [j]))
  | nextTxn (s : State) (n : Word) : Move g s (s.setNextTxn n)
  | reclaim (s : State) (r : Reclaimer) : Move g s (s.setReclaim r)
  | mount (s : State) (m : MountUnit) : Move g s (s.setMount m)
  | supply (s : State) (u : SupplyState) : Move g s (s.setSupply u)
  | freeCount (s : State) (n : Nat) : Move g s (s.setFreeCount n)
  | memWrite (s : State) (a : Nat) (bs : List Byte) : Move g s (s.setMem (Memory.writeBytes s.array.mem a bs))
  | memErase (s : State) (lo hi : Nat) : Move g s (s.setMem (Memory.eraseRange s.array.mem lo hi))
  /-- No row becomes ACTIVE but by the three moves that say so. -/
  | sec (s : State) (i : Sector) (r : SectorRow) (h : r.state = .active → (s.sec i).state = .active) : Move g s (s.setSec i r)
  | table (s : State) (t : SectorTable) (h : ∀ i : Sector, t[i.val].state ≠ .active) : Move g s (s.setTable t)
  /-- R143: at the end of a replay, which has left no sector ACTIVE and started no operation. -/
  | found (s : State) (i : Sector) (r : SectorRow) (h : NoActive s) (ho : s.array.op = none) : Move g s (s.setSec i r)
  /-- R40: the activation record of a sector has been programmed. -/
  | activated (s : State) (i : Sector) (img : Image) (r : SectorRow) (h : s.array.op = some (.activation i img)) :
      Move g s (s.clearOp.setSec i r)
  /-- R39, R40: an activation begins only with no sector ACTIVE. -/
  | activate (s : State) (i : Sector) (img : Image) (h : g → NoActive s) : Move g s (s.startOp (.activation i img))
  /-- R31, R38, R39: or with the ACTIVE sector closed. -/
  | closeActivate (s : State) (i k : Sector) (img : Image) (h : s.activeSector = some i) :
      Move g s ((s.closeSector i).startOp (.activation k img))
  | startOp (s : State) (op : ArrayOp) (h : ∀ i img, op ≠ .activation i img) : Move g s (s.startOp op)
  | clearOp (s : State) : Move g s s.clearOp
  | opTimer (s : State) (n : Nat) : Move g s (s.setArray { s.array with opTimer := n })
  | epoch (s : State) (e : Option Word) : Move g s (s.setEpoch e)
  | nextSeq (s : State) (n : Word) : Move g s (s.setNextSeq n)
  | retired (s : State) (r : BitVec 48) (b : Bool) : Move g s (s.setRetired r b)
  | tenancy (s : State) (t : Tenancy) : Move g s (s.setTenancy t)
  /-- R137: a start. -/
  | started (s : State) (cause : StartCause) : Move g s (State.started cause s.pins s.array.mem s.pending s.freeCount)

/-- A run of moves. -/
inductive Moves (g : Prop) (s : State) : State → Prop
  | refl : Moves g s s
  | snoc {t u : State} (h : Moves g s t) (m : Move g t u) : Moves g s u

namespace Moves

variable {g : Prop} {s t u : State} {l : Link} {sq : Byte}

theorem trans (h : Moves g s t) (h' : Moves g t u) : Moves g s u := by
  induction h' with
  | refl => exact h
  | snoc _ m ih => exact ih.snoc m

end Moves

/-- A law that every move keeps is kept by every run of moves. -/
theorem Moves.keeps {g : Prop} {P : State → Prop} {s t : State} (hP : ∀ a b, Move g a b → P a → P b) (h : Moves g s t) (hs : P s) : P t := by
  induction h with
  | refl => exact hs
  | snoc _ m ih => exact hP _ _ m ih

end Sys2Proof.Laws
end

