-- ==== Sys2Proof/Laws/ArrayMoves.lean ====
section
/-!
SUPPORT. The operations over notices, the directory, the sector table and the array are runs of moves.
-/

namespace Sys2Proof.Laws.Moves

open Sys2Proof.Machine Sys2Proof.Safety

variable {g : Prop} {s t : State}

/-! ### Single moves -/

theorem setPins (h : Moves g s t) (p : Pins) : Moves g s (t.setPins p) := h.snoc (.pins t p)
theorem setReclaim (h : Moves g s t) (r : Reclaimer) : Moves g s (t.setReclaim r) := h.snoc (.reclaim t r)
theorem setMount (h : Moves g s t) (m : MountUnit) : Moves g s (t.setMount m) := h.snoc (.mount t m)
theorem setMode (h : Moves g s t) (m : StoreMode) : Moves g s (t.setMode m) := h.setMount _
theorem setFormat (h : Moves g s t) (f : Option FormatRecord) : Moves g s (t.setFormat f) := h.setMount _
theorem setTenancy (h : Moves g s t) (x : Tenancy) : Moves g s (t.setTenancy x) := h.snoc (.tenancy t x)
theorem setEpoch (h : Moves g s t) (x : Option Word) : Moves g s (t.setEpoch x) := h.snoc (.epoch t x)
theorem setNextSeq (h : Moves g s t) (x : Word) : Moves g s (t.setNextSeq x) := h.snoc (.nextSeq t x)
theorem setNextTxn (h : Moves g s t) (x : Word) : Moves g s (t.setNextTxn x) := h.snoc (.nextTxn t x)
theorem setRetired (h : Moves g s t) (x : BitVec 48) (b : Bool) : Moves g s (t.setRetired x b) := h.snoc (.retired t x b)
theorem setReclaimState (h : Moves g s t) (r : ReclaimState) : Moves g s (t.setReclaimState r) := h.setReclaim _
theorem clearOp (h : Moves g s t) : Moves g s t.clearOp := h.snoc (.clearOp t)

theorem setSec (h : Moves g s t) (i : Sector) (r : SectorRow) (hr : r.state = .active → (t.sec i).state = .active) :
    Moves g s (t.setSec i r) := h.snoc (.sec t i r hr)

theorem startOp (h : Moves g s t) (op : ArrayOp) (ho : ∀ i img, op ≠ .activation i img) : Moves g s (t.startOp op) :=
  h.snoc (.startOp t op ho)

/-- Two runs joined by a choice. -/
theorem ite {c : Prop} [Decidable c] {a b : State} (ha : c → Moves g s a) (hb : ¬ c → Moves g s b) : Moves g s (if c then a else b) := by
  split
  · exact ha ‹_›
  · exact hb ‹_›

/-- A fold of operations that are runs of moves. -/
theorem foldl {α : Type} {f : State → α → State} (hf : ∀ {u : State} (a : α), Moves g s u → Moves g s (f u a)) (h : Moves g s t)
    (l : List α) : Moves g s (l.foldl f t) := by
  induction l generalizing t with
  | nil => exact h
  | cons a l ih => exact ih (hf a h)

/-! ### Notices -/

theorem offerNotice (h : Moves g s t) (l : Link) (kind : NoticeKind) (subject : Half) (detail : Word) (hk : kind ≠ .lost) :
    Moves g s (t.offerNotice l kind subject detail) := h.snoc (.offer t l kind subject detail hk)

theorem offerBoth (h : Moves g s t) (kind : NoticeKind) (subject : Half) (detail : Word) (hk : kind ≠ .lost) :
    Moves g s (t.offerBoth kind subject detail) := (h.offerNotice .p kind subject detail hk).offerNotice .s kind subject detail hk

theorem wearNotice (h : Moves g s t) (i : Sector) (reason : Byte) (n : Nat) : Moves g s (t.wearNotice i reason n) :=
  h.offerBoth _ _ _ (by decide)

theorem commitResultNotice (h : Moves g s t) (l : Link) (x : Half) (r : Result) (n : Option Word) :
    Moves g s (t.commitResultNotice l x r n) := h.offerNotice _ _ _ _ (by decide)

theorem sessionEndedNotice (h : Moves g s t) (l : Link) (x : Half) (n : Nat) : Moves g s (t.sessionEndedNotice l x n) :=
  h.offerNotice _ _ _ _ (by decide)

theorem storeModeNotice (h : Moves g s t) (m : StoreMode) : Moves g s (t.storeModeNotice m) := h.offerBoth _ _ _ (by decide)

theorem startedNotice (h : Moves g s t) : Moves g s t.startedNotice := h.offerBoth _ _ _ (by decide)

theorem clearNotices (h : Moves g s t) (l : Link) : Moves g s (t.setNotices l []) := by
  have := h.snoc (.ack t l (t.noticeQueue l).entries.length)
  rwa [List.drop_length] at this

theorem emptyNotices (h : Moves g s t) : Moves g s t.emptyNotices := (h.clearNotices .p).clearNotices .s

/-! ### The sector table -/

theorem addWaste (h : Moves g s t) (i : Sector) (n : Nat) : Moves g s (t.addWaste i n) := h.setSec _ _ id

theorem setSecState (h : Moves g s t) (i : Sector) (x : SectorState) (hx : x ≠ .active) : Moves g s (t.setSecState i x) :=
  h.setSec _ _ fun e => absurd e hx

theorem setRetirePending (h : Moves g s t) (i : Sector) : Moves g s (t.setRetirePending i) := h.setSec _ _ id

theorem setEraseCount (h : Moves g s t) (i : Sector) (n : Nat) : Moves g s (t.setEraseCount i n) := h.setSec _ _ id

theorem closeSector (h : Moves g s t) (i : Sector) : Moves g s (t.closeSector i) := h.setSec _ _ nofun

theorem closeActive (h : Moves g s t) : Moves g s t.closeActive := by
  unfold State.closeActive
  split
  · exact h.closeSector _
  · exact h

theorem closeRetirePending (h : Moves g s t) (i : Sector) : Moves g s (t.closeRetirePending i) := (h.closeSector i).setRetirePending i

theorem killSpan (h : Moves g s t) (i : Sector) (n : Nat) : Moves g s (t.killSpan i n) := h.setSec _ _ id

/-! ### The directory -/

theorem update (h : Moves g s t) (k : Key) (f : DirEntry → DirEntry) : Moves g s (t.setDirectory (Directory.update t.directory k f)) := by
  refine h.snoc (.dirMap t _ fun e => ?_)
  split
  · rename_i hk; exact hk.symm
  · rfl

theorem put (h : Moves g s t) (e : DirEntry) : Moves g s (t.setDirectory (Directory.put t.directory e)) := h.snoc (.dirPut t e)

theorem filter (h : Moves g s t) (p : DirEntry → Bool) : Moves g s (t.setDirectory (t.directory.filter p)) := h.snoc (.dirFilter t p)

theorem clearDirectory (h : Moves g s t) : Moves g s (t.setDirectory []) := by
  have := h.filter fun _ => false
  rwa [List.filter_eq_nil_iff.2 (by simp)] at this

theorem takeImage (h : Moves g s t) (k : Key) (b : EntryBody) (n : Word) (loc : Location) : Moves g s (t.takeImage k b n loc) := by
  unfold State.takeImage
  split
  · exact h.put _
  · unfold State.supersede
    split
    · rename_i heq
      split at heq
      · cases heq; exact (h.addWaste _ _).put _
      · cases heq; exact h.put _

theorem offer (h : Moves g s t) (img : Image) (loc : Location) : Moves g s (t.offer img loc) := by
  unfold State.offer
  split
  · split
    · exact .ite (fun _ => h.takeImage _ _ _ _) fun _ => h.addWaste _ _
    · exact .ite (fun _ => h.takeImage _ _ _ _) fun _ => (h.addWaste _ _).update _ _
  · exact h

theorem relocate (h : Moves g s t) (k : Key) (loc : Location) : Moves g s (t.relocate k loc) := h.update _ _
theorem release (h : Moves g s t) (l : List TallyItem) : Moves g s (t.release l) := foldl (fun _ h => h.update _ _) h l
theorem markDrop (h : Moves g s t) (k : Key) : Moves g s (t.markDrop k) := h.update _ _
theorem removeDropped (h : Moves g s t) (i : Sector) : Moves g s (t.removeDropped i) := h.filter _

theorem clearDropped (h : Moves g s t) (i : Sector) : Moves g s (t.clearDropped i) :=
  h.snoc (.dirMap t _ fun e => by split <;> rfl)

theorem countStale (h : Moves g s t) (i : Sector) (p : KeyedPlace) : Moves g s (t.countStale i p) := (h.addWaste _ _).update _ _

/-! ### Retirement (R42 to R44) -/

theorem reconsiderMode (h : Moves g s t) : Moves g s t.reconsiderMode := .ite (fun _ => (h.setMode _).storeModeNotice _) fun _ => h

theorem releaseAtRetirement (h : Moves g s t) (i : Sector) : Moves g s (t.releaseAtRetirement i) := .ite (fun _ => h.release _) fun _ => h

theorem retire (h : Moves g s t) (i : Sector) (r : WearReason) : Moves g s (t.retire i r) :=
  ((((h.releaseAtRetirement i).setSec i { (t.releaseAtRetirement i).sec i with state := .retired, waste := 0 } nofun).setRetired _
    _).wearNotice _ _ _).reconsiderMode

theorem raiseEraseCount (h : Moves g s t) (i : Sector) : Moves g s (t.raiseEraseCount i) := by
  have h' := h.setSec i { t.sec i with eraseCount := (t.sec i).eraseCount + 1 } id
  exact .ite (fun _ => h'.wearNotice _ _ _) fun _ => h'

/-! ### Bytes -/

theorem writeHead (h : Moves g s t) (i : Sector) (u : Nat) (bs : List Byte) : Moves g s (t.writeHead i u bs) := h.snoc (.memWrite t _ bs)
theorem writeImage (h : Moves g s t) (loc : Location) (img : Image) : Moves g s (t.writeImage loc img) := h.snoc (.memWrite t _ _)
theorem writeFill (h : Moves g s t) (loc : Location) (n : Nat) : Moves g s (t.writeFill loc n) := h.snoc (.memWrite t _ _)
theorem blankSector (h : Moves g s t) (i : Sector) : Moves g s (t.blankSector i) := h.snoc (.memErase t _ _)

theorem scribble (h : Moves g s t) (a n : Nat) : Moves g s (t.scribble a n) :=
  (h.snoc (.memWrite t a (t.freeBytes n))).snoc (.freeCount _ _)

theorem scribbleUnits (h : Moves g s t) (i : Sector) (u n : Nat) : Moves g s (t.scribbleUnits i u n) := h.scribble _ _

/-! ### Placement and the ends of operations (R31 to R33, R39, R40) -/

theorem noActive_of_none (h : t.activeSector = none) : NoActive t := by
  intro i
  have := List.find?_eq_none.1 h i (List.mem_finRange i)
  simpa using this

theorem tryActivate (h : Moves g s t) (img : Image) (ha : g → NoActive t) : Moves g s (t.tryActivate img).1 := by
  unfold State.tryActivate
  split
  · exact h.snoc (.activate t _ img ha)
  · exact h

theorem place (h : Moves g s t) (img : Image) : Moves g s (t.place img).1 := by
  unfold State.place
  split
  · rename_i i hi
    split
    · exact h.startOp _ nofun
    · unfold State.closeActive
      rw [hi]
      unfold State.tryActivate
      split
      · exact h.snoc (.closeActivate t i _ img hi)
      · exact h.closeSector i
  · rename_i hn
    exact h.tryActivate img fun _ => noActive_of_none hn

theorem imageDone (h : Moves g s t) (img : Image) (loc : Location) : Moves g s (t.imageDone img loc) :=
  (h.clearOp.writeImage loc img).setSec _ _ id

theorem imageFailed (h : Moves g s t) (img : Image) (loc : Location) (ok : Bool) : Moves g s (t.imageFailed img loc ok) := by
  unfold State.imageFailed
  split
  · have h' := (h.clearOp.writeFill loc img.units).killSpan loc.sector img.units
    exact .ite (fun _ => h'.closeRetirePending _) fun _ => h'.setSec _ _ id
  · exact ((h.clearOp.scribbleUnits _ _ _).killSpan _ _).closeRetirePending _

theorem activationDone (h : Moves g s t) {i : Sector} {img : Image} (ho : t.array.op = some (.activation i img)) :
    Moves g s (t.activationDone i) := by
  have e : t.activationDone i =
      ((((t.clearOp.setSec i { t.sec i with state := .active, sequence := some t.array.nextSeq, nextFree := 2 }).writeHead i 1
        (activationBytes t.array.nextSeq t.array.retiredSet)).setRetired t.array.retiredSet true).setNextSeq (t.array.nextSeq + 1)) := by
    unfold State.activationDone State.writeHead State.raiseSeq
    generalize activationBytes t.array.nextSeq t.array.retiredSet = bs
    rfl
  rw [e]
  exact (((h.snoc (.activated t i img _ ho)).writeHead _ _ _).setRetired _ _).setNextSeq _

theorem activationFailed (h : Moves g s t) (i : Sector) : Moves g s (t.activationFailed i) :=
  ((h.clearOp.setNextSeq _).scribbleUnits _ _ _).retire _ _

theorem eraseStepDone (h : Moves g s t) (i : Sector) : Moves g s (t.eraseStepDone i) :=
  ((h.clearOp.raiseEraseCount i).blankSector i).startOp _ nofun

theorem eraseStepFailed (h : Moves g s t) (i : Sector) (r : WearReason) : Moves g s (t.eraseStepFailed i r) :=
  ((h.clearOp.raiseEraseCount i).retire i r).scribbleUnits _ _ _

theorem eraseRecordDone (h : Moves g s t) (i : Sector) : Moves g s (t.eraseRecordDone i) :=
  (h.clearOp.writeHead _ _ _).setSec _ _ nofun

theorem eraseRecordFailed (h : Moves g s t) (i : Sector) (r : WearReason) : Moves g s (t.eraseRecordFailed i r) :=
  (h.clearOp.retire i r).scribbleUnits _ _ _

theorem cutOff (h : Moves g s t) : Moves g s t.cutOff := by
  unfold State.cutOff
  split
  · exact h.clearOp.scribbleUnits _ _ _
  · exact h.clearOp.scribbleUnits _ _ _
  · exact .ite (fun _ => h.clearOp.scribbleUnits _ _ _) fun _ => (h.clearOp.scribbleUnits _ _ _).writeHead _ _ _
  · exact .ite (fun _ => h.clearOp.scribbleUnits _ _ _) fun _ => (h.clearOp.scribbleUnits _ _ _).writeHead _ _ _
  · exact h

/-! ### The reclaimer's triggers -/

theorem lowWater (h : Moves g s t) : Moves g s t.lowWater := .ite (fun _ => h.setReclaimState _) fun _ => h

theorem force (h : Moves g s t) (b : Bool) : Moves g s (t.force b) :=
  .ite (fun _ => (h.setReclaim _).setReclaimState _) fun _ => h.setReclaim _

end Sys2Proof.Laws.Moves
end

