-- ==== Sys2Proof/Laws/Choice.lean ====
section
/-!
SUPPORT. The choice of a sector (R39, R120, R121): what `pick` returns from a list in ascending number, the chain of joins, the victim.
-/

namespace Sys2Proof.Laws

open Sys2Proof.Machine Sys2Proof.Safety

theorem allSectors_sorted : allSectors.Pairwise (· < ·) := by
  unfold allSectors
  exact List.pairwise_lt_finRange 48

theorem mem_sectorsIn {s : State} {x : SectorState} {k : Sector} : k ∈ s.sectorsIn x ↔ (s.sec k).state = x := by
  simp [State.sectorsIn, State.inState, allSectors]

/-- The sector picked is in the list and stands before every other one in `rel`, an order that `better` decides and in which of two that
neither betters the lower number stands first. -/
theorem pick_spec (better : Sector → Sector → Bool) (rel : Sector → Sector → Prop)
    (trans : ∀ a b c, rel a b → rel b c → rel a c) (refl : ∀ a, rel a a)
    (l : List Sector) (hl : l.Pairwise (· < ·)) (hb : ∀ a b, better a b = true → rel a b)
    (hnb : ∀ a b, b < a → better a b = false → rel b a) :
    (∀ i, pick better l = some i → i ∈ l ∧ ∀ k ∈ l, rel i k) ∧ (pick better l = none → l = []) := by
  have key : ∀ (l : List Sector) (b : Sector), (b :: l).Pairwise (· < ·) →
      ∃ i, pick better (b :: l) = some i ∧ (i = b ∨ i ∈ l) ∧ rel i b ∧ ∀ k ∈ l, rel i k := by
    intro l
    induction l with
    | nil => exact fun b _ => ⟨b, rfl, .inl rfl, refl b, by simp⟩
    | cons x l ih =>
      intro b hp
      obtain ⟨p1, p2⟩ := List.pairwise_cons.1 hp
      by_cases h : better x b = true
      · obtain ⟨i, h1, h2, h3, h4⟩ := ih x p2
        refine ⟨i, ?_, ?_, trans _ _ _ h3 (hb _ _ h), ?_⟩
        · rw [← h1]; simp [pick, h]
        · rcases h2 with rfl | h2 <;> simp [*]
        · intro k hk; rcases List.mem_cons.1 hk with rfl | hk
          · exact h3
          · exact h4 k hk
      · obtain ⟨i, h1, h2, h3, h4⟩ := ih b (List.pairwise_cons.2 ⟨fun y hy => p1 y (by simp [hy]), (List.pairwise_cons.1 p2).2⟩)
        have hr : rel b x := hnb x b (p1 x (by simp)) (by simpa using h)
        refine ⟨i, ?_, ?_, h3, ?_⟩
        · rw [← h1]; simp [pick, h]
        · rcases h2 with rfl | h2 <;> simp [*]
        · intro k hk; rcases List.mem_cons.1 hk with rfl | hk
          · exact trans _ _ _ h3 hr
          · exact h4 k hk
  cases l with
  | nil => simp [pick]
  | cons x l =>
    obtain ⟨i, h1, h2, h3, h4⟩ := key l x hl
    rw [h1]
    refine ⟨?_, by simp⟩
    intro j hj; cases hj
    refine ⟨?_, ?_⟩
    · rcases h2 with rfl | h2 <;> simp [*]
    · intro k hk; rcases List.mem_cons.1 hk with rfl | hk
      · exact h3
      · exact h4 k hk

/-! ### The chain of joins and the victim (R120, R121) -/

/-- A list without repetition is no longer than a list that holds it. -/
theorem length_le_of_mem {l : List Sector} (h : l.Nodup) : ∀ m : List Sector, (∀ k ∈ l, k ∈ m) → l.length ≤ m.length := by
  induction l with
  | nil => exact fun _ _ => Nat.zero_le _
  | cons a l ih =>
    intro m hm
    obtain ⟨ha, hl⟩ := List.nodup_cons.1 h
    have hin := hm a (by simp)
    have hpos := List.length_pos_of_mem hin
    have := ih hl (m.erase a) fun k hk =>
      (List.mem_erase_of_ne fun he : k = a => ha (he ▸ hk)).2 (hm k (List.mem_cons_of_mem _ hk))
    rw [List.length_erase_of_mem hin] at this
    rw [List.length_cons]
    omega

/-- No list without repetition holds more than the 48 sectors. -/
theorem sectors_length {l : List Sector} (h : l.Nodup) : l.length ≤ 48 := by
  simpa using length_le_of_mem h (List.finRange 48) fun k _ => List.mem_finRange k

/-- `i` stands behind `n` joins. -/
def JoinsBefore (s : State) : Nat → Sector → Prop
  | 0, i => s.reclaim.span[i.val] = none
  | n + 1, i => ∃ p, s.reclaim.span[i.val] = some p ∧ JoinsBefore s n p

/-- The number of joins before a sector is one number. -/
theorem JoinsBefore.unique {s : State} : ∀ {m n : Nat} {i : Sector}, JoinsBefore s m i → JoinsBefore s n i → m = n
  | 0, 0, _, _, _ => rfl
  | 0, _ + 1, _, h, ⟨_, hp, _⟩ => by unfold JoinsBefore at h; rw [h] at hp; cases hp
  | _ + 1, 0, _, ⟨_, hp, _⟩, h => by unfold JoinsBefore at h; rw [h] at hp; cases hp
  | m + 1, n + 1, _, ⟨_, hp, h⟩, ⟨_, hq, h'⟩ => by rw [hp] at hq; cases hq; rw [JoinsBefore.unique h h']

/-- A chain that ends holds each of its sectors once. -/
theorem JoinsBefore.chain {s : State} : ∀ {n : Nat} {i : Sector}, JoinsBefore s n i →
    ∃ path : List Sector, path.Nodup ∧ path.length = n + 1 ∧ ∀ k ∈ path, ∃ m, m ≤ n ∧ JoinsBefore s m k
  | 0, i, h => ⟨[i], by simp, rfl, fun k hk => ⟨0, Nat.le_refl _, by rw [List.mem_singleton.1 hk]; exact h⟩⟩
  | n + 1, i, ⟨p, hp, h⟩ => by
    obtain ⟨path, nodup, len, depth⟩ := JoinsBefore.chain h
    refine ⟨i :: path, List.nodup_cons.2 ⟨fun hi => ?_, nodup⟩, by simp [len], ?_⟩
    · obtain ⟨m, hm, hd⟩ := depth i hi
      have := JoinsBefore.unique hd (n := n + 1) ⟨p, hp, h⟩
      omega
    · intro k hk
      rcases List.mem_cons.1 hk with rfl | hk
      · exact ⟨n + 1, Nat.le_refl _, p, hp, h⟩
      · obtain ⟨m, hm, hd⟩ := depth k hk
        exact ⟨m, by omega, hd⟩

/-- A chain that ends: how many joins it has, and that so many hops are enough. -/
theorem chainRoot_joins {s : State} {i r : Sector} (h : ChainRoot s i r) :
    ∃ n, JoinsBefore s n i ∧ ∀ m, n ≤ m → s.chainRoot m i = r := by
  induction h with
  | first alone =>
    refine ⟨0, alone, fun m _ => ?_⟩
    cases m with
    | zero => rfl
    | succ m => unfold State.chainRoot; rw [alone]
  | joined join _ ih =>
    obtain ⟨n, hn, hr⟩ := ih
    refine ⟨n + 1, ⟨_, join, hn⟩, fun m hm => ?_⟩
    cases m with
    | zero => omega
    | succ m => unfold State.chainRoot; rw [join]; exact hr m (by omega)

/-- R121: a chain that ends is followed to its first sector. -/
theorem chainRoot_of_ends {s : State} {i r : Sector} (h : ChainRoot s i r) : s.chainRoot 48 i = r := by
  obtain ⟨n, hn, hr⟩ := chainRoot_joins h
  obtain ⟨path, nodup, len, -⟩ := hn.chain
  have := sectors_length nodup
  exact hr 48 (by omega)

theorem mem_victimCandidates {s : State} {k : Sector} : k ∈ s.victimCandidates ↔ (s.sec k).state = .full ∧ k ∉ s.reclaim.barred := by
  simp only [State.victimCandidates, List.mem_filter, mem_sectorsIn]
  simp

theorem mem_candidates {s : State} {aside : List Sector} {k : Sector} :
    k ∈ (s.victimCandidates.filter fun i => !aside.contains i) ↔ (s.sec k).state = .full ∧ k ∉ s.reclaim.barred ∧ k ∉ aside := by
  simp [mem_victimCandidates, and_assoc]

theorem candidates_sorted (s : State) (aside : List Sector) :
    (s.victimCandidates.filter fun i => !aside.contains i).Pairwise (· < ·) :=
  ((allSectors_sorted.filter _).filter _).filter _

/-- R120, steps 2 and 4. -/
theorem pick_lessErased (s : State) {l : List Sector} (hl : l.Pairwise (· < ·)) :
    (∀ i, pick s.lessErased l = some i → i ∈ l ∧ ∀ k ∈ l,
      (s.sec i).eraseCount < (s.sec k).eraseCount ∨ ((s.sec i).eraseCount = (s.sec k).eraseCount ∧ s.sequenceOf i ≤ s.sequenceOf k)) ∧
    (pick s.lessErased l = none → l = []) := by
  refine pick_spec s.lessErased _ (fun a b c h1 h2 => ?_) (fun a => .inr ⟨rfl, Nat.le_refl _⟩) l hl (fun a b h => ?_) (fun a b _ h => ?_)
  · omega
  · simp [State.lessErased] at h; omega
  · simp [State.lessErased] at h; omega

/-- R120, step 3. -/
theorem pick_moreWaste (s : State) {l : List Sector} (hl : l.Pairwise (· < ·)) :
    (∀ i, pick s.moreWaste l = some i → i ∈ l ∧ ∀ k ∈ l,
      (s.sec k).waste < (s.sec i).waste ∨ ((s.sec k).waste = (s.sec i).waste ∧ s.sequenceOf i ≤ s.sequenceOf k)) ∧
    (pick s.moreWaste l = none → l = []) := by
  refine pick_spec s.moreWaste _ (fun a b c h1 h2 => ?_) (fun a => .inr ⟨rfl, Nat.le_refl _⟩) l hl (fun a b h => ?_) (fun a b _ h => ?_)
  · omega
  · simp [State.moreWaste] at h; omega
  · simp [State.moreWaste] at h; omega

/-- The sector that the steps take is a candidate. -/
theorem chooseStep_candidate {s : State} {rotates : Bool} {aside : List Sector} {i : Sector}
    (h : s.chooseStep rotates aside = some i) :
    i ∈ s.victimCandidates.filter fun k => !aside.contains k := by
  unfold State.chooseStep at h
  have hs := candidates_sorted s aside
  generalize (s.victimCandidates.filter fun i => !aside.contains i) = full at h hs
  dsimp only at h
  rcases Option.or_eq_some_iff.1 h with h | ⟨-, h⟩
  · rcases Option.or_eq_some_iff.1 h with h | ⟨-, h⟩
    · rcases Option.or_eq_some_iff.1 h with h | ⟨-, h⟩
      · exact List.mem_of_find?_eq_some h
      · split at h
        · exact ((pick_lessErased s hs).1 i h).1
        · cases h
    · exact (List.mem_filter.1 ((pick_moreWaste s (hs.filter _)).1 i h).1).1
  · split at h
    · exact ((pick_lessErased s hs).1 i h).1
    · cases h

/-- R121: the fuel never runs out. -/
theorem victimChosen_of_fuel (s : State) (rotates : Bool) : ∀ (n : Nat) (aside : List Sector), aside.Nodup → 49 ≤ aside.length + n →
    VictimChosen s rotates aside (s.chooseVictim rotates n aside)
  | 0, aside, nodup, h => by have := sectors_length nodup; omega
  | n + 1, aside, nodup, h => by
    unfold State.chooseVictim
    cases hc : s.chooseStep rotates aside with
    | none => exact .none hc
    | some i =>
      dsimp only
      have hi : i ∉ aside := (mem_candidates.1 (chooseStep_candidate hc)).2.2
      by_cases hb : s.chainRoot 48 i ∈ s.reclaim.barred
      · rw [if_pos (by simpa using hb)]
        exact .again hc hb (victimChosen_of_fuel s rotates n (i :: aside) (List.nodup_cons.2 ⟨hi, nodup⟩) (by simp; omega))
      · rw [if_neg (by simpa using hb)]
        exact .root hc hb

end Sys2Proof.Laws
end

