-- ==== Sys2Proof/Laws/Requests.lean ====
section
/-!
SUPPORT. What a link does with a request that reaches its owner, and what the owner's reply makes of the state: said once, for the statements
about single requests.
-/

namespace Sys2Proof.Laws

open Sys2Proof.Machine Sys2Proof.Safety

variable {s : State} {l : Link} {sq : Byte}

/-! ### From the link to the owner -/

theorem restartLease_huntLink (s : State) (l : Link) : (s.huntLink l).restartLease l = atOwner s l := by
  by_cases h : (s.row l).state = .opened <;>
    simp [State.restartLease, State.huntLink, atOwner, freshLease, hunting, h]

theorem earlySteps_passes (h : Passes s l sq) (rest : State → State) :
    earlySteps l sq rest (s.huntLink l) = rest (s.huntLink l) := by
  obtain ⟨-, hn, hf⟩ := h
  have hn' : ((s.huntLink l).link l).repliesTaken < 4 := by simpa [State.huntLink, LinkState.repliesTaken] using hn
  have hh : ((s.huntLink l).link l).held = (s.link l).held := by simp [State.huntLink]
  have hc : ((s.huntLink l).link l).cache = (s.link l).cache := by simp [State.huntLink]
  unfold earlySteps
  rw [if_neg (by simpa [Config.maxReplies] using hn'), hh, hc]
  rcases hf with rfl | ⟨h1, h2⟩
  · cases (s.link l).cache <;> simp
  · rw [if_neg (by simp [h1])]
    cases hk : (s.link l).cache with
    | none => rfl
    | some f => simp [hk] at h2; simp [h2]

/-- A request that passes the link's steps runs its owner on the state with the framer in HUNT and the lease restarted. -/
theorem takeRequest_passes (h : Passes s l sq) (kind : ReqKind) (hk : kind.passesHeld = true ∨ (s.link l).held = none)
    (owner : State → State) : takeRequest l sq kind true owner s = owner (atOwner s l) := by
  unfold takeRequest
  rw [if_pos h.1, earlySteps_passes h]
  unfold lateSteps
  have hh : ((s.huntLink l).link l).held = (s.link l).held := by simp [State.huntLink]
  rw [hh, restartLease_huntLink]
  rcases hk with hk | hk <;> simp [hk]

theorem takeRequest_free (h : PassesFree s l sq) (kind : ReqKind) (owner : State → State) :
    takeRequest l sq kind true owner s = owner (atOwner s l) :=
  takeRequest_passes h.1 kind (.inr h.2) owner

/-! ### What the owner sees -/

@[simp] theorem atOwner_row_self : (atOwner s l).row l = freshLease (s.row l) := by simp [atOwner]
@[simp] theorem atOwner_link_self : (atOwner s l).link l = hunting (s.link l) := by simp [atOwner]
@[simp] theorem atOwner_row_other : (atOwner s l).row l.other = s.row l.other := by
  cases l <;> rfl
@[simp] theorem atOwner_mount : (atOwner s l).mount = s.mount := rfl
@[simp] theorem atOwner_directory : (atOwner s l).directory = s.directory := rfl
@[simp] theorem atOwner_commit : (atOwner s l).commit = s.commit := rfl
@[simp] theorem atOwner_array : (atOwner s l).array = s.array := rfl
@[simp] theorem atOwner_reclaim : (atOwner s l).reclaim = s.reclaim := rfl
@[simp] theorem atOwner_sessionCounter : (atOwner s l).sessionCounter = s.sessionCounter := rfl
@[simp] theorem atOwner_noticeQueue (x : Link) : (atOwner s l).noticeQueue x = s.noticeQueue x := rfl

@[simp] theorem freshLease_state (r : SessionRow) : (freshLease r).state = r.state := by unfold freshLease; split <;> rfl
@[simp] theorem freshLease_orphaned (r : SessionRow) : (freshLease r).orphaned = r.orphaned := by unfold freshLease; split <;> rfl
@[simp] theorem freshLease_number (r : SessionRow) : (freshLease r).number = r.number := by unfold freshLease; split <;> rfl
@[simp] theorem freshLease_privilege (r : SessionRow) : (freshLease r).privilege = r.privilege := by unfold freshLease; split <;> rfl
@[simp] theorem freshLease_staging (r : SessionRow) : (freshLease r).staging = r.staging := by unfold freshLease; split <;> rfl
@[simp] theorem freshLease_watch (r : SessionRow) : (freshLease r).watch = r.watch := by unfold freshLease; split <;> rfl
@[simp] theorem freshLease_holds (r : SessionRow) : (freshLease r).holdsSession = r.holdsSession := by
  simp [SessionRow.holdsSession]

theorem poolFreeSlots_atOwner : (atOwner s l).poolFreeSlots = s.poolFreeSlots := by
  cases l <;> simp [State.poolFreeSlots, atOwner, State.setRow_row]

theorem poolFreeBytes_atOwner : (atOwner s l).poolFreeBytes = s.poolFreeBytes := by
  cases l <;> simp [State.poolFreeBytes, atOwner, State.setRow_row]

/-! ### The reply -/

theorem atOwner_setRow (r : SessionRow) : (atOwner s l).setRow l r = (s.setRow l r).setLink l (hunting (s.link l)) := by
  simp [atOwner]

theorem answer_setRow (r : SessionRow) (kind : ReqKind) (code : Result) (rest : List Byte) :
    ((atOwner s l).setRow l r).answer l sq kind code rest = replied s l r (frame sq (replyKind kind.code) (code.code :: rest)) := by
  simp only [atOwner_setRow, State.answer, State.placeFrame, LinkState.withReplies, replied, withReply, hunting, frame, Frame.make,
    State.setLink_link_self, State.setLink_setLink]

theorem answer_atOwner (kind : ReqKind) (code : Result) (rest : List Byte) :
    (atOwner s l).answer l sq kind code rest =
      replied s l (freshLease (s.row l)) (frame sq (replyKind kind.code) (code.code :: rest)) := by
  rw [← answer_setRow]; simp [atOwner]

theorem refuse_atOwner (kind : ReqKind) (code : Result) :
    (atOwner s l).refuse l sq kind code = refusedWith s l sq (replyKind kind.code) code.code kind.fixedPart := by
  simp [State.refuse, answer_atOwner, refusedWith]

theorem setNotices_answer (s : State) (l x : Link) (q : List Notice) (sq : Byte) (k : ReqKind) (r : Result) (rest : List Byte) :
    (s.setNotices x q).answer l sq k r rest = (s.answer l sq k r rest).setNotices x q := rfl

/-- In READY, READ-ONLY and UNFORMATTED the store mode check of R20, R23, R52, R53, R55, R59 passes. -/
theorem modeRefusal_answers {m : StoreMode} (h : answersMode m) : modeRefusal m = none := by
  rcases h with rfl | rfl | rfl <;> rfl

end Sys2Proof.Laws
end

