-- ==== Sys2Proof/Laws/Commit.lean ====
section
/-!
SUPPORT. The commit engine's shared operations: the checks that a good COMMIT passes, the placement of an image that fits, and the frame of
an apply.
-/

namespace Sys2Proof.Laws

open Sys2Proof.Machine Sys2Proof.Safety

theorem holdsSession_of_open {r : SessionRow} {p : Privilege} (h : OpenWith r p) : r.holdsSession = true := by
  simp [SessionRow.holdsSession, h.1, h.2.1]

/-- R87: a list with no clipped entry names no key. -/
theorem firstClipped_none {l : List StagedEntry} (h : ∀ e ∈ l, ∀ c x b n, e.op = .put c x b n → n = 0) : firstClipped l = none := by
  unfold firstClipped
  rw [Option.map_eq_none_iff, List.find?_eq_none]
  intro e he
  cases ho : e.op with
  | put c x b n => simp [h e he c x b n ho]
  | delete x => simp
  | add d => simp

/-- R31: an image that fits in the ACTIVE sector goes to its next free unit. -/
theorem place_active {s : State} {i : Sector} {img : Image} (ha : s.activeSector = some i) (h : img.units ≤ (s.sec i).free) :
    s.place img = (s.startOp (.image img { sector := i, unit := (s.sec i).nextFree }), true) := by
  unfold State.place
  rw [ha]
  simp only [h, if_true]

/-- `t` is `s` but for the directory and the sector table, and no sector has changed state. -/
def DirectoryAndTable (s t : State) : Prop :=
  t = { s with directory := t.directory, array := { s.array with table := t.array.table } } ∧ ∀ i, (t.sec i).state = (s.sec i).state

namespace DirectoryAndTable

variable {s t u : State}

theorem refl (s : State) : DirectoryAndTable s s := ⟨rfl, fun _ => rfl⟩

theorem trans (a : DirectoryAndTable s t) (b : DirectoryAndTable t u) : DirectoryAndTable s u := by
  refine ⟨?_, fun i => (b.2 i).trans (a.2 i)⟩
  rw [b.1, a.1]

theorem setDirectory (a : DirectoryAndTable s t) (d : List DirEntry) : DirectoryAndTable s (t.setDirectory d) := by
  refine ⟨?_, a.2⟩
  rw [a.1]
  rfl

theorem addWaste (a : DirectoryAndTable s t) (i : Sector) (n : Nat) : DirectoryAndTable s (t.addWaste i n) := by
  refine ⟨?_, fun k => ?_⟩
  · rw [a.1]; rfl
  · rw [← a.2 k, State.addWaste, State.setSec_sec]
    split
    · subst_vars; rfl
    · rfl

end DirectoryAndTable

/-- R12, R14, R15: what taking an image as current can change. -/
theorem takeImage_frame (s : State) (key : Key) (b : EntryBody) (g : Word) (loc : Location) :
    DirectoryAndTable s (s.takeImage key b g loc) := by
  unfold State.takeImage
  split
  · exact (DirectoryAndTable.refl s).setDirectory _
  · unfold State.supersede
    split
    rename_i h
    split at h
    · cases h; exact ((DirectoryAndTable.refl s).addWaste _ _).setDirectory _
    · cases h; exact (DirectoryAndTable.refl s).setDirectory _

theorem applyEntries_frame (txn : Word) (l : List (StagedEntry × Place)) (s : State) :
    DirectoryAndTable s (l.foldl (fun s e => s.applyEntry txn e) s) := by
  induction l generalizing s with
  | nil => exact .refl s
  | cons e l ih =>
    refine .trans ?_ (ih _)
    unfold State.applyEntry
    dsimp only
    split <;> exact takeImage_frame _ _ _ _ _

end Sys2Proof.Laws
end

