-- ==== Sys2Proof/Laws/CommitMoves.lean ====
section
/-!
SUPPORT. The links' replies, the sessions, the commit engine and the reclaimer are runs of moves.
-/

namespace Sys2Proof.Laws.Moves

open Sys2Proof.Machine Sys2Proof.Safety

variable {g : Prop} {s t : State} {l : Link}

/-! ### Links -/

theorem setLink (h : Moves g s t) (l : Link) (k : LinkState)
    (hk : k.repliesTaken ≤ 4 ∨ k.repliesTaken ≤ (t.link l).repliesTaken)
    (ht : TransmitLawOf k ∨ (k.tx = (t.link l).tx ∧ k.replies = (t.link l).replies)) : Moves g s (t.setLink l k) :=
  h.snoc (.link t l k hk ht)

/-- A change of a link that keeps its replies, its transmit line and its held request. -/
theorem setLinkKeeping (h : Moves g s t) (l : Link) (k : LinkState) (hr : k.replies = (t.link l).replies)
    (hx : k.tx = (t.link l).tx) (hh : k.held = (t.link l).held) : Moves g s (t.setLink l k) :=
  h.setLink l k (.inr (Nat.le_of_eq (by rw [LinkState.repliesTaken, LinkState.repliesTaken, hr, hh]))) (.inr ⟨hx, hr⟩)

/-- A transmit line passes to mark. -/
theorem markLine (h : Moves g s t) (l : Link) : Moves g s (t.setLink l { t.link l with tx := .mark }) :=
  h.setLink l _ (.inr (Nat.le_refl _)) (.inl (.inl rfl))

theorem holdLines (h : Moves g s t) : Moves g s t.holdLines := (h.markLine .p).markLine .s

theorem huntLink (h : Moves g s t) (l : Link) : Moves g s (t.huntLink l) := h.setLinkKeeping l _ rfl rfl rfl
theorem raiseOverrun (h : Moves g s t) (l : Link) : Moves g s (t.raiseOverrun l) := h.setLinkKeeping l _ rfl rfl rfl
theorem raiseCheck (h : Moves g s t) (l : Link) : Moves g s (t.raiseCheck l) := h.setLinkKeeping l _ rfl rfl rfl
theorem raiseGap (h : Moves g s t) (l : Link) : Moves g s (t.raiseGap l) := h.setLinkKeeping l _ rfl rfl rfl

theorem placeFrame (h : Moves g s t) (l : Link) (f : Frame) (hk : (t.link l).repliesTaken < 4) : Moves g s (t.placeFrame l f) := by
  refine h.setLink l _ (.inl ?_) (.inl (.inr rfl))
  change ((t.link l).replies ++ [f]).length + (if (t.link l).held.isSome then 1 else 0) ≤ 4
  rw [LinkState.repliesTaken] at hk
  rw [List.length_append, List.length_singleton]
  omega

theorem answer (h : Moves g s t) (l : Link) (sq : Byte) (k : ReqKind) (r : Result) (rest : List Byte)
    (hk : (t.link l).repliesTaken < 4) : Moves g s (t.answer l sq k r rest) := h.placeFrame l _ hk

theorem refuse (h : Moves g s t) (l : Link) (sq : Byte) (k : ReqKind) (r : Result) (hk : (t.link l).repliesTaken < 4) :
    Moves g s (t.refuse l sq k r) := h.answer l sq k r _ hk

theorem hold (h : Moves g s t) (l : Link) (k : HeldKind) (sq : Byte) (hk : (t.link l).repliesTaken < 4) :
    Moves g s (t.hold l k sq) := by
  refine h.setLink l _ (.inl ?_) (.inr ⟨rfl, rfl⟩)
  simp only [LinkState.repliesTaken, Option.isSome_some, if_true] at hk ⊢
  omega

theorem placeHeld (h : Moves g s t) (l : Link) (r : Result) (rest : List Byte) : Moves g s (t.placeHeld l r rest) := by
  unfold State.placeHeld
  split
  · exact h
  · rename_i x hx
    unfold State.placeFrame
    rw [State.setLink_setLink, State.setLink_link_self]
    refine h.setLink l _ (.inr ?_) (.inl (.inr rfl))
    simp [LinkState.repliesTaken, LinkState.withReplies, hx]

/-! ### Sessions -/

theorem setRow (h : Moves g s t) (l : Link) (r : SessionRow)
    (hn : r.number = none ∨ r.number = (t.row l).number ∨ r.number ≠ (t.row l.other).number)
    (hs : r.staging = [] ∨ r.staging = (t.row l).staging) : Moves g s (t.setRow l r) := h.snoc (.row t l r hn hs)

/-- A change of a row that keeps its number and its staging. -/
theorem setRowKeeping (h : Moves g s t) (l : Link) (r : SessionRow) (hn : r.number = (t.row l).number)
    (hs : r.staging = (t.row l).staging) : Moves g s (t.setRow l r) := h.setRow l r (.inr (.inl hn)) (.inr hs)

theorem endRow (h : Moves g s t) (l : Link) : Moves g s (t.endRow l) := h.setRow l _ (.inl rfl) (.inl rfl)

theorem restartLease (h : Moves g s t) (l : Link) : Moves g s (t.restartLease l) :=
  .ite (fun _ => h.setRowKeeping l _ rfl rfl) fun _ => h

theorem clearStaging (h : Moves g s t) (l : Link) : Moves g s (t.setStaging l []) :=
  h.setRow l _ (.inr (.inl rfl)) (.inl rfl)

theorem unstage (h : Moves g s t) (l : Link) (k : Key) : Moves g s (t.setStaging l (Machine.unstage (t.row l).staging k)) :=
  h.snoc (.unstage t l k)

/-! ### The commit queue -/

theorem setJob (h : Moves g s t) (j : CommitJob) : Moves g s (t.setJob j) := by
  refine h.snoc (.queueMap t _ fun x => ?_)
  split
  · rename_i hx; exact hx.symm
  · rfl

theorem removeJob (h : Moves g s t) (l : Link) : Moves g s (t.removeJob l) := h.snoc (.queueFilter t _)

theorem requeueWaiting (h : Moves g s t) : Moves g s t.requeueWaiting :=
  h.snoc (.queueMap t _ fun x => by split <;> rfl)

theorem wasteWritten (h : Moves g s t) (p : List Place) : Moves g s (t.wasteWritten p) := foldl (fun _ h => h.addWaste _ _) h p

theorem reportJob (h : Moves g s t) (j : CommitJob) (r : Result) : Moves g s (t.reportJob j r) := by
  unfold State.reportJob
  refine .ite (fun _ => (h.commitResultNotice _ _ _ _).endRow _) fun _ => .ite (fun _ => (h.placeHeld _ _ _).endRow _) fun _ => ?_
  have hr : Moves g s (t.setRow j.link
      { t.row j.link with state := .opened, staging := if r = .ok then [] else (t.row j.link).staging }) :=
    h.setRow _ _ (.inr (.inl rfl)) (by by_cases hr : r = .ok <;> simp [hr])
  exact (hr.restartLease _).placeHeld _ _ _

theorem endJob (h : Moves g s t) (j : CommitJob) (r : Result) (k : Key) : Moves g s (t.endJob j r k) := by
  unfold State.endJob
  have h' := h.setJob { j with state := .done, result := some r, failingKey := k }
  have h2 : ∀ u, Moves g s u → Moves g s (((u.reportJob { j with state := .done, result := some r, failingKey := k } r).removeJob
      j.link).lowWater) := fun u hu => ((hu.reportJob _ _).removeJob _).lowWater
  refine .ite (fun _ => (h2 _ ?_).setTenancy _) fun _ => h2 _ ?_
  all_goals exact .ite (fun _ => h'.wasteWritten _) fun _ => h'

theorem keyChanged (h : Moves g s t) (l : Link) (n : Word) (ks : List Key) : Moves g s (t.keyChanged l n ks) :=
  .ite (fun _ => foldl (fun _ h => h.offerNotice _ _ _ _ (by decide)) h _) fun _ => h

theorem applyEntry (h : Moves g s t) (n : Word) (e : StagedEntry × Place) : Moves g s (t.applyEntry n e) := by
  unfold State.applyEntry
  split
  all_goals exact h.takeImage _ _ _ _

theorem commitDone (h : Moves g s t) (j : CommitJob) : Moves g s (t.commitDone j) :=
  (((foldl (fun _ h => h.applyEntry _ _) h _).keyChanged _ _ _).setReclaim _).endJob _ _ _

theorem commitPlace (h : Moves g s t) (j : CommitJob) (img : Image) : Moves g s (t.commitPlace j img) := by
  unfold State.commitPlace
  refine .ite (fun _ => ?_) fun _ => h.endJob _ _ _
  have h' := (h.setJob j).place img
  split
  · rename_i heq; rw [heq] at h'; exact h'
  · rename_i heq; rw [heq] at h'; exact h'.endJob _ _ _

theorem commitWrite (h : Moves g s t) (j : CommitJob) : Moves g s (t.commitWrite j) := by
  unfold State.commitWrite
  dsimp only
  split
  · split
    · exact h.commitPlace _ _
    · exact h.endJob _ _ _
  · exact h.commitPlace _ _

theorem beginWriting (h : Moves g s t) (j : CommitJob) : Moves g s (t.beginWriting j) := ((h.setNextTxn _).setJob _).commitWrite _

theorem waitForSpace (h : Moves g s t) (j : CommitJob) : Moves g s (t.waitForSpace j) := ((h.setJob _).force _).setTenancy _

theorem validate (h : Moves g s t) (j : CommitJob) : Moves g s (t.validate j) := by
  unfold State.validate
  refine .ite (fun _ => h.endJob _ _ _) fun _ => ?_
  split
  · exact h.endJob _ _ _
  · split
    · exact h.endJob _ _ _
    · exact .ite (fun _ => h.endJob _ _ _) fun _ => .ite (fun _ => h.beginWriting _) fun _ =>
        .ite (fun _ => h.waitForSpace _) fun _ => h.endJob _ _ _

theorem grantCommit (h : Moves g s t) (j : CommitJob) : Moves g s (t.grantCommit j) := ((h.setTenancy _).setJob _).validate _

theorem commitImageDone (h : Moves g s t) (j : CommitJob) (img : Image) (loc : Location) : Moves g s (t.commitImageDone j img loc) := by
  unfold State.commitImageDone
  split
  · exact h.commitDone _
  · exact .ite (fun _ => h.endJob _ _ _) fun _ => (h.setJob _).commitWrite _

theorem commitImageFailed (h : Moves g s t) (j : CommitJob) (img : Image) : Moves g s (t.commitImageFailed j img) :=
  .ite (fun _ => h.endJob _ _ _) fun _ => .ite (fun _ => h.commitPlace _ _) fun _ => h.endJob _ _ _

theorem haltJob (h : Moves g s t) (j : CommitJob) : Moves g s (t.haltJob j) := .ite (fun _ => h) fun _ => h.endJob _ _ _

theorem haltJobs (h : Moves g s t) : Moves g s t.haltJobs := foldl (fun _ h => h.haltJob _) h _

theorem cancelJob (h : Moves g s t) (l : Link) : Moves g s (t.cancelJob l) := ((h.removeJob l).endRow l).lowWater

/-! ### The reclaimer -/

theorem endCycle (h : Moves g s t) : Moves g s t.endCycle := by
  have h' := h.requeueWaiting.setReclaim
    { t.reclaim with victim := none, openTxn := none, tally := [], relocated := [], walkUnit := 2, copyFailures := 0 }
  exact .ite (fun _ => h'.setReclaimState _) fun _ => .ite (fun _ => h'.setReclaimState _) fun _ => h'.setReclaimState _

theorem noCycle (h : Moves g s t) (n : Nat) : Moves g s (t.noCycle n) := by
  unfold State.noCycle
  refine Moves.setTenancy ?_ _
  split
  · exact .ite (fun _ => (h.setReclaim _).endJob _ _ _) fun _ => h.setReclaim _
  · exact h.setReclaim _

theorem moveEndsEarly (h : Moves g s t) (v : Sector) (b : Bool) : Moves g s (t.moveEndsEarly v b) := by
  unfold State.moveEndsEarly
  have h' := (foldl (fun (p : KeyedPlace) (h : Moves g s _) => h.countStale v p)
    (h.setSec v { t.sec v with state := .full, nextFree := Config.sectorUnits } nofun)
    (t.setSec v { t.sec v with state := .full, nextFree := Config.sectorUnits }).reclaim.relocated).clearDropped v
  exact (ite (fun _ => h'.setReclaim _) fun _ => h').endCycle.setTenancy _

theorem victimMoved (h : Moves g s t) (v : Sector) : Moves g s (t.victimMoved v) :=
  (((h.setSec v { t.sec v with state := .moved, waste := (t.sec v).nextFree - 2 } nofun).release _).setReclaim _).setTenancy _

theorem walkStops (h : Moves g s t) (v : Sector) : Moves g s (t.walkStops v) :=
  .ite (fun _ => h.moveEndsEarly _ _) fun _ => h.victimMoved _

theorem advanceWalk (h : Moves g s t) (n : Nat) : Moves g s (t.advanceWalk n) := h.setReclaim _

theorem trackWalk (h : Moves g s t) (loc : Location) (img : Image) : Moves g s (t.trackWalk loc img) := h.setReclaim _

theorem placeCopy (h : Moves g s t) (v : Sector) (img : Image) : Moves g s (t.placeCopy v img) := by
  unfold State.placeCopy
  have h' := h.place img
  split
  · rename_i heq; rw [heq] at h'; exact h'
  · rename_i heq; rw [heq] at h'; exact h'.moveEndsEarly _ _

theorem walk (v : Sector) (n : Nat) (h : Moves g s t) : Moves g s (State.walk v n t) := by
  induction n generalizing t with
  | zero => exact h.victimMoved v
  | succ n ih =>
    unfold State.walk
    refine .ite (fun _ => h.victimMoved v) fun _ => ?_
    split
    · exact ih (h.advanceWalk 1)
    · exact h.walkStops v
    · exact h.walkStops v
    · dsimp only
      split
      · exact ih ((h.trackWalk _ _).advanceWalk _)
      · exact .ite (fun _ => .ite (fun _ => ih (((h.trackWalk _ _).markDrop _).advanceWalk _)) fun _ => (h.trackWalk _ _).placeCopy _ _)
          fun _ => h.moveEndsEarly _ _

theorem beginMove (h : Moves g s t) (v : Sector) (n : Nat) : Moves g s (t.beginMove v n) :=
  walk v _ ((h.setSecState v .victim nofun).setReclaim _)

theorem grantMove (h : Moves g s t) : Moves g s t.grantMove := by
  unfold State.grantMove
  have h1 := h.setTenancy .move
  have h2 : Moves g s (if ((t.setTenancy .move).chooseVictim (t.reclaim.rotation + 1 == Config.rotation) 49 []).isNone &&
      (t.setTenancy .move).mayCloseActive then (t.setTenancy .move).closeActive else t.setTenancy .move) :=
    ite (fun _ => h1.closeActive) fun _ => h1
  simp only
  split
  · exact ite (fun _ => h2.beginMove _ _) fun _ => h2.noCycle _
  · exact h2.noCycle _

theorem copyDone (h : Moves g s t) (v : Sector) (img : Image) (loc : Location) : Moves g s (t.copyDone v img loc) :=
  walk v _ (((h.relocate _ _).setReclaim _).advanceWalk _)

theorem thirdFailure (h : Moves g s t) (i : Sector) : Moves g s (t.thirdFailure i) :=
  .ite (fun _ => h.closeRetirePending _) fun _ => h.setRetirePending _

theorem copyFailed (h : Moves g s t) (v : Sector) (img : Image) (i : Sector) : Moves g s (t.copyFailed v img i) :=
  .ite (fun _ => (h.setReclaim _).placeCopy _ _) fun _ => ((h.setReclaim _).thirdFailure _).moveEndsEarly _ _

theorem moveStops (h : Moves g s t) : Moves g s t.moveStops := (h.setReclaim _).setTenancy _

theorem copyDoneStopped (h : Moves g s t) (img : Image) (loc : Location) : Moves g s (t.copyDoneStopped img loc) :=
  (h.relocate _ _).moveStops

theorem endErasePhase (h : Moves g s t) (v : Sector) : Moves g s (t.endErasePhase v) := (h.setReclaim _).endCycle.setTenancy _

theorem grantErase (h : Moves g s t) (v : Sector) : Moves g s (t.grantErase v) := by
  have h' := ((h.setTenancy .erase).removeDropped v).setReclaimState .erasing
  exact .ite (fun _ => (h'.retire _ _).endErasePhase _) fun _ => .ite (fun _ => (h'.retire _ _).endErasePhase _) fun _ =>
    (h'.setSecState v .erasing nofun).startOp _ nofun

theorem haltReclaimer (h : Moves g s t) : Moves g s t.haltReclaimer := by
  unfold State.haltReclaimer
  split
  all_goals exact (h.setReclaim _).setReclaim _

end Sys2Proof.Laws.Moves
end

