-- ==== Sys2Proof/Laws/Directory.lean ====
section
/-!
SUPPORT. The directory: its order is kept, and what a key finds after an entry is put or updated (R7, R11).
-/

namespace Sys2Proof.Laws

open Sys2Proof.Machine Sys2Proof.Safety

/-! ### Order (law 1) -/

theorem mem_put {d : List DirEntry} {e x : DirEntry} (h : x ∈ Directory.put d e) : x = e ∨ x ∈ d := by
  induction d with
  | nil => simpa [Directory.put] using h
  | cons y d ih =>
    rw [Directory.put] at h
    split at h
    · simpa using h
    · split at h
      · rcases List.mem_cons.1 h with h | h
        · exact .inl h
        · exact .inr (by simp [h])
      · rcases List.mem_cons.1 h with h | h
        · exact .inr (by simp [h])
        · rcases ih h with h | h
          · exact .inl h
          · exact .inr (by simp [h])

theorem put_sorted {d : List DirEntry} (e : DirEntry) (h : d.Pairwise fun a b => a.key.toNat < b.key.toNat) :
    (Directory.put d e).Pairwise fun a b => a.key.toNat < b.key.toNat := by
  induction d with
  | nil => simp [Directory.put]
  | cons y d ih =>
    obtain ⟨h1, h2⟩ := List.pairwise_cons.1 h
    rw [Directory.put]
    split
    · rename_i hlt
      refine List.pairwise_cons.2 ⟨?_, h⟩
      intro x hx
      rcases List.mem_cons.1 hx with rfl | hx
      · exact hlt
      · have := h1 x hx; omega
    · split
      · rename_i heq
        exact List.pairwise_cons.2 ⟨fun x hx => heq ▸ h1 x hx, h2⟩
      · rename_i hlt hne
        refine List.pairwise_cons.2 ⟨?_, ih h2⟩
        intro x hx
        rcases mem_put hx with rfl | hx
        · have : x.key.toNat ≠ y.key.toNat := fun hc => hne (BitVec.eq_of_toNat_eq hc)
          omega
        · exact h1 x hx

/-! ### Finding -/

theorem find_put_other (d : List DirEntry) (e : DirEntry) (k : Key) (h : k ≠ e.key) :
    Directory.find (Directory.put d e) k = Directory.find d k := by
  have h' : e.key ≠ k := h.symm
  induction d with
  | nil => simp [Directory.find, Directory.put, h']
  | cons x d ih =>
    rw [Directory.put]
    split
    · simp [Directory.find, h']
    · split
      · rename_i heq
        simp [Directory.find, h', ← heq]
      · simp only [Directory.find, List.find?_cons] at ih ⊢
        split
        · rfl
        · exact ih

theorem find_put_self (d : List DirEntry) (e : DirEntry) : Directory.find (Directory.put d e) e.key = some e := by
  induction d with
  | nil => simp [Directory.find, Directory.put]
  | cons x d ih =>
    rw [Directory.put]
    split
    · simp [Directory.find]
    · split
      · simp [Directory.find]
      · rename_i hne
        simp only [Directory.find] at ih ⊢
        rw [List.find?_cons_of_neg (by simpa using Ne.symm hne)]
        exact ih

theorem find_update (d : List DirEntry) (k x : Key) (f : DirEntry → DirEntry) :
    Directory.find (Directory.update d k f) x = if x = k then (Directory.find d x).map (fun e => { f e with key := k }) else Directory.find d x := by
  induction d with
  | nil => simp [Directory.find, Directory.update]
  | cons e d ih =>
    simp only [Directory.find, Directory.update, List.map_cons] at ih ⊢
    by_cases he : e.key = k
    · by_cases hx : x = k
      · subst hx; simp [he]
      · rw [if_pos he, List.find?_cons_of_neg (by simpa using Ne.symm hx), ih, if_neg hx, if_neg hx, List.find?_cons_of_neg]
        simp [he]; exact Ne.symm hx
    · rw [if_neg he]
      by_cases hx : x = e.key
      · subst hx; simp [he]
      · rw [List.find?_cons_of_neg (by simpa using Ne.symm hx), List.find?_cons_of_neg (by simpa using Ne.symm hx)]; exact ih

/-- A release of stale counts (R11) moves no entry. -/
theorem release_location (s : State) (l : List TallyItem) (k : Key) :
    (Directory.find (s.release l).directory k).map DirEntry.location = (Directory.find s.directory k).map DirEntry.location := by
  unfold State.release
  induction l generalizing s with
  | nil => rfl
  | cons a l ih =>
    rw [List.foldl_cons, ih, State.releaseOne, State.setDirectory_directory, find_update]
    split
    · cases Directory.find s.directory k <;> simp
      split <;> rfl
    · rfl

end Sys2Proof.Laws
end

