-- ==== Sys2Proof/Laws/Memory.lean ====
section
/-!
SUPPORT. The bytes of the array: what is read after a write, a block of writes or an erase, and that each of them keeps the canonical form.
-/

namespace Sys2Proof.Machine.Memory

/-! ### Reading where nothing is listed -/

theorem read_eq_blank {m : Memory} {a : Nat} (h : ∀ c ∈ m, c.1 ≠ a) : m.read a = blankByte := by
  induction m with
  | nil => rfl
  | cons c m ih =>
    rw [read, if_neg (h c (by simp))]
    exact ih fun c' hc' => h c' (by simp [hc'])

/-- In a canonical list every address of the tail lies above the head's. -/
theorem wf_cons {c : Host.Cell} {m : Memory} : wf (c :: m) ↔ (∀ d ∈ m, c.1 < d.1) ∧ c.2 ≠ blankByte ∧ wf m := by
  simp only [wf, List.pairwise_cons, List.forall_mem_cons]
  exact ⟨fun ⟨⟨h1, h2⟩, h3, h4⟩ => ⟨h1, h3, h2, h4⟩, fun ⟨h1, h2, h3, h4⟩ => ⟨⟨h1, h3⟩, h2, h4⟩⟩

/-! ### One byte -/

theorem mem_write {m : Memory} {a : Nat} {b : Byte} {c : Host.Cell} (h : c ∈ m.write a b) :
    c ∈ m ∨ (c = (a, b) ∧ b ≠ blankByte) := by
  induction m with
  | nil =>
    rw [write] at h
    split at h <;> simp_all
  | cons d m ih =>
    rw [write] at h
    split at h
    · split at h
      · exact .inl h
      · rename_i hb
        rcases List.mem_cons.1 h with h | h
        · exact .inr ⟨h, hb⟩
        · exact .inl h
    · split at h
      · split at h
        · exact .inl (List.mem_cons_of_mem _ h)
        · rename_i hb
          rcases List.mem_cons.1 h with h | h
          · exact .inr ⟨h, hb⟩
          · exact .inl (List.mem_cons_of_mem _ h)
      · rcases List.mem_cons.1 h with h | h
        · exact .inl (by simp [h])
        · rcases ih h with h | h
          · exact .inl (by simp [h])
          · exact .inr h

theorem write_wf {m : Memory} (h : wf m) (a : Nat) (b : Byte) : wf (m.write a b) := by
  induction m with
  | nil => rw [write]; split <;> simp_all [wf]
  | cons c m ih =>
    obtain ⟨hlt, hb, hm⟩ := wf_cons.1 h
    rw [write]
    split
    · rename_i hac
      split
      · exact h
      · rename_i hbb
        refine wf_cons.2 ⟨?_, hbb, h⟩
        rintro d hd
        rcases List.mem_cons.1 hd with rfl | hd
        · exact hac
        · exact Nat.lt_trans hac (hlt d hd)
    · rename_i hac
      split
      · rename_i heq
        split
        · exact hm
        · rename_i hbb
          exact wf_cons.2 ⟨fun d hd => heq ▸ hlt d hd, hbb, hm⟩
      · rename_i hne
        refine wf_cons.2 ⟨?_, hb, ih hm⟩
        intro d hd
        rcases mem_write hd with hd | ⟨rfl, -⟩
        · exact hlt d hd
        · exact Nat.lt_of_le_of_ne (Nat.not_lt.1 hac) (Ne.symm hne)

theorem read_write_self {m : Memory} (h : wf m) (a : Nat) (b : Byte) : (m.write a b).read a = b := by
  induction m with
  | nil => rw [write]; split <;> simp_all [read]
  | cons c m ih =>
    obtain ⟨hlt, hb, hm⟩ := wf_cons.1 h
    rw [write]
    split
    · rename_i hac
      split
      · rename_i hbb
        rw [read_eq_blank, hbb]
        intro d hd
        rcases List.mem_cons.1 hd with rfl | hd
        · omega
        · have := hlt d hd; omega
      · simp [read]
    · split
      · rename_i hac heq
        split
        · rename_i hbb
          rw [read_eq_blank, hbb]
          intro d hd
          have := hlt d hd
          omega
        · simp [read]
      · rename_i hne
        rw [read, if_neg (Ne.symm hne)]
        exact ih hm

theorem read_write_other (m : Memory) {a x : Nat} (b : Byte) (hx : x ≠ a) : (m.write a b).read x = m.read x := by
  induction m with
  | nil => rw [write]; split <;> simp [read, hx.symm]
  | cons c m ih =>
    rw [write]
    split
    · split
      · rfl
      · simp [read, hx.symm]
    · split
      · rename_i hac heq
        have hc : c.1 ≠ x := by omega
        split <;> simp [read, hc, hx.symm]
      · simp only [read, ih]

/-! ### Blocks -/

theorem writeBytes_wf {m : Memory} (h : wf m) (a : Nat) (bs : List Byte) : wf (m.writeBytes a bs) := by
  induction bs generalizing m a with
  | nil => exact h
  | cons b bs ih => exact ih (write_wf h a b) (a + 1)

theorem read_writeBytes_other (m : Memory) (a : Nat) (bs : List Byte) {x : Nat} (hx : x < a ∨ a + bs.length ≤ x) :
    (m.writeBytes a bs).read x = m.read x := by
  induction bs generalizing m a with
  | nil => rfl
  | cons b bs ih =>
    rw [List.length_cons] at hx
    rw [writeBytes, ih _ _ (by omega), read_write_other _ _ (by omega)]

theorem readBytes_congr {m m' : Memory} {a n : Nat} (h : ∀ x, a ≤ x → x < a + n → m.read x = m'.read x) :
    m.readBytes a n = m'.readBytes a n := by
  induction n generalizing a with
  | zero => rfl
  | succ n ih =>
    rw [readBytes, readBytes, h a (Nat.le_refl a) (by omega), ih fun x h1 h2 => h x (by omega) (by omega)]

theorem readBytes_writeBytes {m : Memory} (h : wf m) (a : Nat) (bs : List Byte) :
    (m.writeBytes a bs).readBytes a bs.length = bs := by
  induction bs generalizing m a with
  | nil => rfl
  | cons b bs ih =>
    rw [List.length_cons, readBytes, writeBytes, ih (write_wf h a b), read_writeBytes_other _ _ _ (.inl (Nat.lt_succ_self a)),
      read_write_self h]

/-! ### Erasing -/

theorem eraseRange_wf {m : Memory} (h : wf m) (lo hi : Nat) : wf (m.eraseRange lo hi) :=
  ⟨h.1.filter _, fun c hc => h.2 c (List.mem_filter.1 hc).1⟩

theorem read_eraseRange_inside (m : Memory) {lo hi x : Nat} (h1 : lo ≤ x) (h2 : x < hi) :
    (m.eraseRange lo hi).read x = blankByte := by
  refine read_eq_blank fun c hc hcx => ?_
  have := (List.mem_filter.1 hc).2
  simp only [Bool.or_eq_true, decide_eq_true_eq] at this
  omega

theorem read_eraseRange_outside (m : Memory) {lo hi x : Nat} (hx : x < lo ∨ hi ≤ x) :
    (m.eraseRange lo hi).read x = m.read x := by
  induction m with
  | nil => rfl
  | cons c m ih =>
    rw [eraseRange, List.filter_cons]
    by_cases hc : c.1 = x
    · have : (decide (c.1 < lo) || decide (hi ≤ c.1)) = true := by simp [hc, hx]
      rw [if_pos this]
      simp [read, hc]
    · split
      · simp only [read, hc, if_false]; exact ih
      · simp only [read, hc, if_false]; exact ih

end Sys2Proof.Machine.Memory
end

