-- ==== Sys2Proof/Laws/Notices.lean ====
section
/-!
SUPPORT. The notice queues: taking a notice keeps law 9 of its queue (R159, R161), and a change of one queue leaves the other.
-/

namespace Sys2Proof.Laws

open Sys2Proof.Machine Sys2Proof.Safety

theorem takeNotice_law (q : List Notice) (kind : NoticeKind) (subject : Half) (detail : Word) (hk : kind ≠ .lost)
    (h : NoticeLawOf { entries := q, attn := !q.isEmpty }) :
    NoticeLawOf { entries := takeNotice q kind subject detail, attn := !(takeNotice q kind subject detail).isEmpty } := by
  obtain ⟨h1, h2, h3, h4, -⟩ := h
  have hrep : ∀ n, 1 ≤ n → n ≤ 255 → 1 ≤ raiseRepeat n ∧ raiseRepeat n ≤ 255 := by
    intro n; unfold raiseRepeat; split <;> omega
  have hmap : ∀ f : Notice → Notice, (∀ n, (f n).kind = n.kind ∧ (f n).subject = n.subject ∧
      (1 ≤ n.repeats → n.repeats ≤ 255 → 1 ≤ (f n).repeats ∧ (f n).repeats ≤ 255)) →
      NoticeLawOf { entries := q.map f, attn := !(q.map f).isEmpty } := by
    intro f hf
    refine ⟨by simpa using h1, ?_, ?_, ?_, rfl⟩
    · exact List.Pairwise.map f (fun x y hxy => by rw [(hf x).1, (hf y).1, (hf x).2.1, (hf y).2.1]; exact hxy) h2
    · have : (q.map f).filter (fun n => n.kind != .lost) = (q.filter fun n => n.kind != .lost).map f := by
        rw [List.filter_map]; congr 1; congr 1; funext n; simp [(hf n).1]
      rw [this, List.length_map]; exact h3
    · intro n hn
      obtain ⟨m, hm, rfl⟩ := List.mem_map.1 hn
      exact (hf m).2.2 (h4 m hm).1 (h4 m hm).2
  unfold takeNotice
  split
  · apply hmap; intro n; split
    · exact ⟨rfl, rfl, fun a b => hrep _ a b⟩
    · exact ⟨rfl, rfl, fun a b => ⟨a, b⟩⟩
  · rename_i hsame
    split
    · apply hmap; intro n; split
      · exact ⟨rfl, rfl, fun a b => hrep _ a b⟩
      · exact ⟨rfl, rfl, fun a b => ⟨a, b⟩⟩
    · rename_i hlost
      simp only [List.any_eq_true, not_exists, not_and, beq_iff_eq] at hlost hsame
      have hall : q.filter (fun n => n.kind != .lost) = q := List.filter_eq_self.2 fun n hn => by simpa using hlost n hn
      rw [hall] at h3
      split
      · rename_i hlen
        refine ⟨by simp; omega, ?_, ?_, ?_, by simp⟩
        · rw [List.pairwise_append]
          refine ⟨h2, by simp, ?_⟩
          intro a ha b hb
          simp only [List.mem_singleton] at hb; subst hb
          rintro ⟨e1, e2⟩
          exact hsame a ha (by simp [Notice.sameAs, e1, e2, hk])
        · simp only [List.filter_append, hall, List.length_append]
          have := List.length_filter_le (fun n : Notice => n.kind != .lost)
            [{ kind := kind, subject := subject, detail := detail, repeats := 1, seen := false }]
          simp only [List.length_singleton] at this
          omega
        · intro n hn
          rcases List.mem_append.1 hn with hn | hn
          · exact h4 n hn
          · simp only [List.mem_singleton] at hn; subst hn; simp
      · rename_i hlen
        refine ⟨by simp; omega, ?_, ?_, ?_, by simp⟩
        · rw [List.pairwise_append]
          refine ⟨h2, by simp, ?_⟩
          intro a ha b hb
          simp only [List.mem_singleton] at hb; subst hb
          rintro ⟨e1, e2⟩
          exact hlost a ha e1
        · simp only [List.filter_append, hall, List.length_append]
          simp; omega
        · intro n hn
          rcases List.mem_append.1 hn with hn | hn
          · exact h4 n hn
          · simp only [List.mem_singleton] at hn; subst hn; simp

theorem setNotices_law {s : State} (l : Link) (q : List Notice) (h : NoticeLaw s)
    (hq : NoticeLawOf (s.noticeQueue l) → NoticeLawOf { entries := q, attn := !q.isEmpty }) :
    NoticeLaw (s.setNotices l q) := by
  intro x
  rw [State.setNotices_noticeQueue]
  split
  · exact hq (h l)
  · exact h x

end Sys2Proof.Laws
end

