-- ==== Sys2Proof/Laws/Restated.lean ====
section
/-!
SUPPORT. The machine's shared operations in the words of the statements (Safety.lean): one equation each, for the provers to cite in place of
the operation's body.
-/

namespace Sys2Proof.Laws

open Sys2Proof.Machine Sys2Proof.Safety

variable {s t : State}

/-! ### Requests -/

/-- R108: the zero fields of a refused COMMIT. -/
theorem commitFields_none (key : Key) : commitFields key none 0 false = be16 key ++ [0, 0, 0, 0, 0, 0] := by
  simp [commitFields, flagBit0, be32]

/-! ### The triggers of the reclaimer (R116, R118) -/

theorem somethingToReclaim_iff : s.somethingToReclaim = true ↔
    ∃ k, (s.sec k).state = .full ∧ k ∉ s.reclaim.barred ∧ (0 < (s.sec k).waste ∨ (s.sec k).retirePending = true) := by
  unfold State.somethingToReclaim
  rw [List.any_eq_true]
  simp only [mem_victimCandidates, Bool.or_eq_true, decide_eq_true_eq, and_assoc]

theorem inService_iff : s.inService = true ↔ s.mount.mode = .ready ∨ s.mount.mode = .readOnly := by
  simp [State.inService]

theorem lowWater_eq (s : State) : s.lowWater = atLowWater s := by
  have h : (s.reclaim.state = .idle ∧ s.inService = true ∧ s.erasedCount ≤ Config.lowWater ∧ s.somethingToReclaim = true) ↔
      CycleWanted s := by
    rw [inService_iff, somethingToReclaim_iff]
    rfl
  unfold State.lowWater atLowWater
  by_cases hc : CycleWanted s
  · rw [if_pos (h.2 hc), if_pos hc]; rfl
  · rw [if_neg fun hx => hc (h.1 hx), if_neg hc]

theorem endCycle_restated (s : State) : s.endCycle.setTenancy .none = cycleEnded s := by
  have h : ∀ t : State, t.mount = s.mount → t.array = s.array → t.reclaim.barred = s.reclaim.barred →
      ((t.inService && decide (t.erasedCount < Config.refill) && t.somethingToReclaim) = true ↔ MoreWanted s) := by
    intro t hm ha hb
    have hs : t.sec = s.sec := State.sec_congr (by rw [ha])
    rw [Bool.and_eq_true, Bool.and_eq_true, inService_iff, somethingToReclaim_iff, decide_eq_true_eq, hm, hb, hs,
      State.erasedCount_congr (s := s) (by rw [ha]), and_assoc]
    rfl
  unfold State.endCycle cycleEnded
  dsimp only
  by_cases hf : s.reclaim.forced = true
  · rw [if_pos (by exact hf), if_pos (Or.inl hf)]
    rfl
  · rw [if_neg (by exact hf)]
    by_cases hw : MoreWanted s
    · rw [if_pos ((h _ (by rfl) (by rfl) (by rfl)).2 hw), if_pos (Or.inr hw)]
      rfl
    · rw [if_neg fun hx => hw ((h _ (by rfl) (by rfl) (by rfl)).1 hx), if_neg (not_or.2 ⟨hf, hw⟩)]
      rfl

theorem endErasePhase_eq (s : State) (v : Sector) : s.endErasePhase v = cycleEnded (withoutJoins s v) :=
  endCycle_restated _

/-! ### Sectors -/

theorem closeSector_eq (s : State) (i : Sector) : s.closeSector i = withClosed s i := rfl

theorem closeActive_eq {i : Sector} (h : s.activeSector = some i) : s.closeActive = withClosed s i := by
  unfold State.closeActive
  rw [h]
  rfl

/-- R31, R39, R40: when an image finds its place, and what is begun for it. -/
theorem place_iff (s t : State) (img : Image) : s.place img = (t, true) ↔ Placed s img t := by
  unfold State.place Placed State.tryActivate
  cases ha : s.activeSector with
  | none =>
    simp only [reduceCtorEq, false_and, exists_false, false_or, true_and]
    cases hc : s.chooseErased with
    | none => simp
    | some k => simp [eq_comm]
  | some i =>
    simp only [Option.some.injEq, reduceCtorEq, false_and, exists_false, or_false, exists_eq_left']
    by_cases hu : img.units ≤ (s.sec i).free
    · rw [if_pos hu]
      have hu' : img.units ≤ 256 - (s.sec i).nextFree := hu
      have hn : ¬ 256 - (s.sec i).nextFree < img.units := by omega
      simp [hu', hn, eq_comm]
    · rw [if_neg hu, closeActive_eq ha]
      have hu' : ¬ img.units ≤ 256 - (s.sec i).nextFree := hu
      have hn : 256 - (s.sec i).nextFree < img.units := by omega
      simp only [hu', false_and, false_or]
      cases hc : (withClosed s i).chooseErased with
      | none => simp [hc]
      | some k => simp [hn, hc, eq_comm]

/-- An image that finds no place: no sector is ERASED, and an ACTIVE one that it does not fit has been closed. -/
theorem place_fails (s : State) (img : Image) (h : (s.place img).2 = false) :
    (∃ i, s.activeSector = some i ∧ 256 - (s.sec i).nextFree < img.units ∧ s.place img = (withClosed s i, false)) ∨
    (s.activeSector = none ∧ s.place img = (s, false)) := by
  unfold State.place State.tryActivate at *
  cases ha : s.activeSector with
  | none =>
    rw [ha] at h
    dsimp only at h ⊢
    cases hc : s.chooseErased with
    | none => exact .inr ⟨rfl, rfl⟩
    | some k => rw [hc] at h; cases h
  | some i =>
    rw [ha] at h
    dsimp only at h ⊢
    by_cases hu : img.units ≤ (s.sec i).free
    · rw [if_pos hu] at h; cases h
    · rw [if_neg hu, closeActive_eq ha] at h ⊢
      have hn : 256 - (s.sec i).nextFree < img.units := Nat.lt_of_not_le hu
      cases hc : (withClosed s i).chooseErased with
      | none => exact .inl ⟨i, rfl, hn, rfl⟩
      | some k => rw [hc] at h; cases h

theorem unitAddress_eq (i : Sector) (u : Nat) : unitAddress i u = i.val * 4096 + u * 16 := rfl

theorem unitAddress_zero (i : Sector) : unitAddress i 0 = i.val * 4096 := by
  simp [unitAddress, Config.sectorBytes]

theorem unitAddress_one (i : Sector) : unitAddress i 1 = i.val * 4096 + 16 := by
  simp [unitAddress, Config.sectorBytes, Config.unitBytes]

/-- R33, R41: the count rises; 90,000 gives a WEAR notice. -/
theorem raiseEraseCount_eq (s : State) (i : Sector) :
    s.raiseEraseCount i =
      if (s.sec i).eraseCount = 89999 then
        (s.setSec i { s.sec i with eraseCount := (s.sec i).eraseCount + 1 }).offerBoth .wear (BitVec.ofNat 16 i.val) 90000
      else s.setSec i { s.sec i with eraseCount := (s.sec i).eraseCount + 1 } := by
  unfold State.raiseEraseCount
  by_cases h : (s.sec i).eraseCount = 89999
  · have hn : (s.sec i).eraseCount + 1 = Config.wearNotice := by simp [Config.wearNotice]; omega
    rw [if_pos h]
    dsimp only
    rw [if_pos hn, h]
    rfl
  · have hn : ¬ (s.sec i).eraseCount + 1 = Config.wearNotice := by simp [Config.wearNotice]; omega
    rw [if_neg h]
    dsimp only
    rw [if_neg hn]

/-- R26, R33. -/
theorem eraseRecordDone_eq (s : State) (i : Sector) :
    s.eraseRecordDone i =
      (s.clearOp.setMem (Memory.writeBytes s.array.mem (i.val * 4096)
        (eraseRecordBytes (s.array.epoch.getD 0) (s.sec i).eraseCount))).setSec i
        { state := .erased, eraseCount := (s.sec i).eraseCount, sequence := none, nextFree := 2, waste := 0, suspect := false,
          retirePending := false } := by
  unfold State.eraseRecordDone State.writeHead
  rw [unitAddress_zero]
  rfl

theorem eraseRecordFailed_eq (s : State) (i : Sector) (r : WearReason) :
    s.eraseRecordFailed i r = (s.clearOp.retire i r).scribble (i.val * 4096) 16 := by
  unfold State.eraseRecordFailed State.scribbleUnits
  rw [unitAddress_zero]

theorem eraseStepFailed_eq (s : State) (i : Sector) (r : WearReason) :
    s.eraseStepFailed i r = ((s.clearOp.raiseEraseCount i).retire i r).scribble (i.val * 4096) 4096 := by
  unfold State.eraseStepFailed State.scribbleUnits
  rw [unitAddress_zero]
  rfl

/-- R40, DONE. -/
theorem activationDone_eq (s : State) (i : Sector) :
    s.activationDone i =
      (((s.clearOp.setMem (Memory.writeBytes s.array.mem (i.val * 4096 + 16) (activationBytes s.array.nextSeq s.array.retiredSet))).setSec i
        { s.sec i with state := .active, sequence := some s.array.nextSeq, nextFree := 2 }).setRetired s.array.retiredSet true).setNextSeq
        (s.array.nextSeq + 1) := by
  unfold State.activationDone State.raiseSeq State.writeHead
  rw [unitAddress_one]
  rfl

/-- R40, VERIFY-FAIL or DEADLINE. -/
theorem activationFailed_eq (s : State) (i : Sector) :
    s.activationFailed i =
      ((s.clearOp.setNextSeq (s.array.nextSeq + 1)).scribble (i.val * 4096 + 16) 16).retire i .activationFailed := by
  unfold State.activationFailed State.raiseSeq State.scribbleUnits
  rw [unitAddress_one]
  rfl

/-- R32. -/
theorem imageFailed_eq (s : State) (img : Image) (loc : Location) (ok : Bool) : s.imageFailed img loc ok = failedSpan s img loc ok := by
  have hw : (s.clearOp.writeFill loc img.units).sec loc.sector = s.sec loc.sector := rfl
  have hc : (s.clearOp.scribbleUnits loc.sector loc.unit img.units).sec loc.sector = s.sec loc.sector := rfl
  unfold State.imageFailed failedSpan
  cases ok with
  | true =>
    cases hsus : (s.sec loc.sector).suspect <;>
      simp [State.closeRetirePending, State.closeSector, State.setRetirePending, State.killSpan, hw, hsus] <;> rfl
  | false =>
    simp [State.closeRetirePending, State.closeSector, State.setRetirePending, State.killSpan, hc]
    rfl

/-! ### The images of a transaction -/

theorem wasteWritten_eq (s : State) (l : List Place) : s.wasteWritten l = withWaste s l := by
  unfold State.wasteWritten
  have table : ∀ (u : State) (f : Sector → SectorRow), (∀ k, u.sec k = f k) → u = u.setTable (Vector.ofFn f) := by
    intro u f h
    have : u.array.table = Vector.ofFn f := by
      ext k hk
      rw [Vector.getElem_ofFn]
      exact h ⟨k, hk⟩
    rw [← this]
    rfl
  have hsec : ∀ (l : List Place) (u : State) (k : Sector),
      (l.foldl (fun s p => s.addWaste p.location.sector p.size) u).sec k =
        { u.sec k with waste := (u.sec k).waste + ((l.filter fun p => p.location.sector == k).map Place.size).sum } := by
    intro l
    induction l with
    | nil => intro u k; simp
    | cons p l ih =>
      intro u k
      rw [List.foldl_cons, ih, State.addWaste, State.setSec_sec]
      by_cases hk : k = p.location.sector
      · subst hk; simp [Nat.add_assoc]
      · have hk' : (p.location.sector == k) = false := by simpa using Ne.symm hk
        simp [hk, hk']
  have hrest : ∀ (l : List Place) (u : State), ∃ x, l.foldl (fun s p => s.addWaste p.location.sector p.size) u = u.setTable x := by
    intro l
    induction l with
    | nil => exact fun u => ⟨u.array.table, rfl⟩
    | cons p l ih => intro u; obtain ⟨x, hx⟩ := ih (u.addWaste p.location.sector p.size); exact ⟨x, hx⟩
  obtain ⟨x, hx⟩ := hrest l s
  rw [table _ _ (hsec l s), hx]
  rfl

@[simp] theorem withWaste_commit (s : State) (l : List Place) : (withWaste s l).commit = s.commit := by rw [withWaste, State.setTable_commit]
@[simp] theorem withWaste_mount (s : State) (l : List Place) : (withWaste s l).mount = s.mount := by rw [withWaste, State.setTable_mount]
@[simp] theorem withWaste_reclaim (s : State) (l : List Place) : (withWaste s l).reclaim = s.reclaim := by rw [withWaste, State.setTable_reclaim]
@[simp] theorem withWaste_row (s : State) (l : List Place) (x : Link) : (withWaste s l).row x = s.row x := by rw [withWaste, State.setTable_row]
@[simp] theorem withWaste_link (s : State) (l : List Place) (x : Link) : (withWaste s l).link x = s.link x := by rw [withWaste, State.setTable_link]

theorem joinSpans_eq (v : Vector (Option Sector) 48) (l : List Sector) :
    joinSpans v l = (l.zip l.tail).foldl (fun v p => if p.1 = p.2 then v else v.set p.2.val (some p.1) p.2.isLt) v := by
  induction l generalizing v with
  | nil => rfl
  | cons a l ih =>
    cases l with
    | nil => rfl
    | cons b l =>
      rw [joinSpans, ih]
      rfl

theorem withJoins_eq (s : State) (l : List Sector) : s.setReclaim { s.reclaim with span := joinSpans s.reclaim.span l } = withJoins s l := by
  rw [joinSpans_eq]
  rfl

/-- R102. -/
theorem counterReads_iff (s : State) (key : Key) (v : Word) : CounterReads s key v ↔ s.readCounter key = some v := by
  unfold CounterReads State.readCounter
  cases hl : Directory.live s.directory key with
  | none => simp
  | some p =>
    obtain ⟨cls, e⟩ := p
    dsimp only
    constructor
    · rintro ⟨cls', e', a, b, c, d, h1, rfl, h2⟩
      cases h1
      rcases h2 with h2 | h2 <;> rw [h2] <;> simp [Image.recordBody?, Image.key?, Image.number, toWord]
    · intro h
      split at h
      · rename_i img himg
        split at h
        · rename_i a b c d hb
          split at h
          · rename_i hk
            cases h
            refine ⟨cls, e, a, b, c, d, rfl, rfl, ?_⟩
            cases img <;> simp_all [Image.recordBody?, Image.key?, Image.number]
          · cases h
        · cases h
      · cases h

/-- R4. -/
theorem saturatingAdd_eq (value delta : Word) :
    saturatingAdd value delta =
      (BitVec.ofInt 32 (max 0 (min 4294967295 ((value.toNat : Int) + delta.toInt))),
        decide ((value.toNat : Int) + delta.toInt < 0 ∨ 4294967295 < (value.toNat : Int) + delta.toInt)) := by
  unfold saturatingAdd
  generalize (value.toNat : Int) + delta.toInt = sum
  dsimp only
  split
  · rename_i h
    rw [Int.max_eq_left (by omega)]
    simp [h]
  · split
    · rename_i h h'
      rw [Int.min_eq_left (by omega)]
      exact Prod.ext rfl (by simp [h'])
    · rename_i h h'
      rw [Int.min_eq_right (by omega), Int.max_eq_right (by omega)]
      simp [h, h']

/-- R101, R102. -/
theorem formsImage_iff (s : State) (txn : Word) (e : StagedEntry) (img : Image) (saturated : Bool) :
    FormsImage s txn e img saturated ↔ s.entryImage txn e = some (img, saturated) := by
  unfold FormsImage State.entryImage
  cases e.op with
  | put c x b n => simp [eq_comm]
  | delete x => simp [eq_comm]
  | add delta =>
    dsimp only
    simp only [counterReads_iff]
    cases s.readCounter e.key with
    | none => simp
    | some v => simp [saturatingAdd_eq, eq_comm]

/-! ### The space check (R97, R98) -/

theorem fits_iff (s : State) (sizes : List Nat) :
    s.fits sizes = true ↔
      (sizes.foldl (fun (a : Nat × Nat) n => if n ≤ a.1 then (a.1 - n, a.2) else (254 - n, a.2 + 1)) (s.activeFree, 0)).2 ≤
        s.erasedCount - 2 := by
  have h : ∀ (l : List Nat) (free n : Nat),
      (l.foldl (fun (a : Nat × Nat) n => if n ≤ a.1 then (a.1 - n, a.2) else (254 - n, a.2 + 1)) (free, n)).2 =
        n + freshSectors l free := by
    intro l
    induction l with
    | nil => intro free n; rfl
    | cons x l ih =>
      intro free n
      rw [List.foldl_cons, freshSectors]
      by_cases hx : x ≤ free
      · rw [if_pos (by exact hx), if_pos hx, ih]
      · rw [if_neg (by exact hx), if_neg hx, ih]
        simp only [Config.imageUnits]
        omega
  rw [h, Nat.zero_add, State.fits, decide_eq_true_eq]
  rfl

/-- R35. -/
theorem totalWaste_eq (s : State) :
    s.totalWaste =
      ((List.finRange 48).map fun i => if (s.sec i).state = .active ∨ (s.sec i).state = .full then (s.sec i).waste else 0).sum := by
  unfold State.totalWaste allSectors
  generalize List.finRange 48 = l
  induction l with
  | nil => rfl
  | cons i l ih =>
    rw [List.filter_cons, List.map_cons, List.sum_cons, ← ih]
    by_cases h : (s.sec i).state = .active ∨ (s.sec i).state = .full
    · rw [if_pos (by simpa [State.inState] using h), if_pos h]
      rfl
    · rw [if_neg (by simpa [State.inState] using h), if_neg h, Nat.zero_add]

/-! ### The ends of jobs and of a format -/

theorem frame_make (sq kind : Byte) (body : List Byte) : Frame.make sq kind body = frame sq kind body := rfl

theorem replyKind_held (k : HeldKind) : replyKind k.code = k.code + 0x80 := by
  cases k <;> rfl

theorem placeHeld_some {l : Link} {h : Held} (hh : (s.link l).held = some h) (r : Result) (rest : List Byte) :
    s.placeHeld l r rest = s.setLink l (heldAnswered (s.link l) (frame h.sequence (h.kind.code + 0x80) (r.code :: rest))) := by
  unfold State.placeHeld State.placeFrame
  rw [hh]
  dsimp only
  rw [State.setLink_link_self, State.setLink_setLink, frame_make, replyKind_held]
  rfl

theorem placeHeld_none {l : Link} (hh : (s.link l).held = none) (r : Result) (rest : List Byte) : s.placeHeld l r rest = s := by
  unfold State.placeHeld
  rw [hh]

/-- The end of a job (R90, R96, R105, R107, R108, R110, R112), and the array free after it. -/
theorem endJob_setTenancy (s : State) (j : CommitJob) (r : Result) (key : Key) :
    (s.endJob j r key).setTenancy .none =
      jobEnded (if r = .mediaFault ∨ r = .halted then withWaste s j.written else s) j r.code key
        (if r = .ok then (s.row j.link).staging.length else 0) (r == .ok && j.saturated) := by
  have hfilter : ∀ j' : CommitJob, j'.link = j.link →
      ((s.commit.queue.map fun x => if x.link = j'.link then j' else x).filter fun x => x.link != j.link) =
        s.commit.queue.filter fun x => x.link != j.link := by
    intro j' hj
    generalize s.commit.queue = q
    induction q with
    | nil => rfl
    | cons x q ih =>
      rw [List.map_cons, List.filter_cons, List.filter_cons, ih, hj]
      by_cases hx : x.link = j.link
      · simp [hx, hj]
      · simp [hx]
  have hwaste : ∀ (u : State) (q : List CommitJob) (l : List Place), (u.setQueue q).wasteWritten l = (withWaste u l).setQueue q := by
    intro u q l
    rw [wasteWritten_eq]
    rfl
  have hcode : (r.code = 0x00) ↔ r = .ok := by cases r <;> decide
  have hreport : ∀ (u : State) (q : List CommitJob) (j' : CommitJob), j'.link = j.link → j'.session = j.session → j'.txn = j.txn →
      j'.saturated = j.saturated → j'.failingKey = key → (u.row j.link) = s.row j.link →
      (u.setQueue q).reportJob j' r =
        (jobReported u j r.code key (if r = .ok then (s.row j.link).staging.length else 0) (r == .ok && j.saturated)).setQueue q := by
    intro u q j' h1 h2 h3 h4 h5 h6
    have hb : r.code :: commitFields key j.txn (if r = .ok then (s.row j.link).staging.length else 0) (r == .ok && j.saturated) =
        r.code :: be16 key ++ be32 (j.txn.getD 0) ++
          [BitVec.ofNat 8 (if r = .ok then (s.row j.link).staging.length else 0),
            if (r == .ok && j.saturated) = true then 1 else 0] := by
      unfold commitFields flagBit0
      cases (r == .ok && j.saturated) <;> rfl
    unfold State.reportJob jobReported
    rw [h1, h2, h3, h4, h5]
    dsimp only
    have hrow : (u.setQueue q).row j.link = u.row j.link := rfl
    have hmode : (u.setQueue q).mount.mode = u.mount.mode := rfl
    rw [hrow, hmode]
    by_cases ho : (u.row j.link).orphaned = true
    · rw [if_pos ho, if_pos ho]
      rfl
    · rw [if_neg ho, if_neg ho, ← hb, h6]
      by_cases hm : u.mount.mode = .halted
      · rw [if_pos hm, if_pos hm]
        cases hh : (u.link j.link).held with
        | none => rw [placeHeld_none (by exact hh)]; rfl
        | some h => rw [placeHeld_some (by exact hh)]; rfl
      · rw [if_neg hm, if_neg hm]
        unfold State.restartLease
        rw [State.setRow_row_self]
        dsimp only
        rw [if_pos rfl, State.setRow_setRow]
        simp only [hcode]
        cases hh : (u.link j.link).held with
        | none => rw [placeHeld_none (by exact hh)]; rfl
        | some h =>
          rw [placeHeld_some (by exact hh)]
          simp only [State.setRow_setLink]
          rfl
  have hq : ∀ (u : State) (c : Byte) (n : Nat) (b : Bool) (x : List CommitJob),
      ((jobReported u j c key n b).setQueue x).commit.queue = x := fun _ _ _ _ _ => rfl
  have hten : ∀ u : State, (if j.state.holdsArray = true then u.setTenancy .none else u).setTenancy .none = u.setTenancy .none := by
    intro u; split <;> rfl
  have main : ∀ (u : State) (j' : CommitJob), u.commit = s.commit → u.row j.link = s.row j.link →
      j'.link = j.link → j'.session = j.session → j'.txn = j.txn → j'.saturated = j.saturated → j'.failingKey = key →
      (((u.setQueue (s.commit.queue.map fun x => if x.link = j'.link then j' else x)).reportJob j' r).removeJob j.link).lowWater.setTenancy
          .none =
        jobEnded u j r.code key (if r = .ok then (s.row j.link).staging.length else 0) (r == .ok && j.saturated) := by
    intro u j' hc hrow h1 h2 h3 h4 h5
    rw [hreport u _ j' h1 h2 h3 h4 h5 hrow, State.removeJob, hq, hfilter j' h1, State.setQueue_setQueue, lowWater_eq, jobEnded, hc]
  unfold State.endJob
  generalize hj : ({ j with state := .done, result := some r, failingKey := key } : CommitJob) = j'
  have h1 : j'.link = j.link := by rw [← hj]
  have h2 : j'.session = j.session := by rw [← hj]
  have h3 : j'.txn = j.txn := by rw [← hj]
  have h4 : j'.saturated = j.saturated := by rw [← hj]
  have h5 : j'.failingKey = key := by rw [← hj]
  dsimp only
  rw [hten]
  by_cases hr : r = .mediaFault ∨ r = .halted
  · rw [if_pos hr, if_pos hr, State.setJob, hwaste]
    exact main (withWaste s j.written) j' (withWaste_commit _ _) (withWaste_row _ _ _) h1 h2 h3 h4 h5
  · rw [if_neg hr, if_neg hr, State.setJob]
    exact main s j' rfl rfl h1 h2 h3 h4 h5

/-- A job that holds the array frees it as it ends. -/
theorem endJob_eq (s : State) (j : CommitJob) (r : Result) (key : Key) (h : j.state.holdsArray = true) :
    s.endJob j r key =
      jobEnded (if r = .mediaFault ∨ r = .halted then withWaste s j.written else s) j r.code key
        (if r = .ok then (s.row j.link).staging.length else 0) (r == .ok && j.saturated) := by
  rw [← endJob_setTenancy]
  unfold State.endJob
  dsimp only
  rw [if_pos h]
  rfl

/-! ### The writing of a job (R101 to R106) -/

theorem withWaste_nil (s : State) : withWaste s [] = s := (wasteWritten_eq s []).symm

theorem placed_tenancy {s t : State} {img : Image} (h : Placed s img t) : t.array.tenancy = s.array.tenancy := by
  rcases h with ⟨i, -, -, rfl⟩ | ⟨i, k, -, -, -, rfl⟩ | ⟨k, -, -, rfl⟩ <;> rfl

/-- While the array is held a placed image leaves the arbiter nothing to grant. -/
theorem settle_placed {s t : State} {img : Image} (h : Placed s img t) (ht : s.array.tenancy ≠ .none) : t.settle = t :=
  State.settle_held (by rw [placed_tenancy h]; exact ht)

/-- R31. -/
theorem imageDone_eq (s : State) (img : Image) (loc : Location) :
    s.imageDone img loc =
      (s.clearOp.setMem (Memory.writeBytes s.array.mem (loc.sector.val * 4096 + loc.unit * 16) img.bytes)).setSec loc.sector
        { s.sec loc.sector with nextFree := (s.sec loc.sector).nextFree + img.units } := rfl

theorem jobReported_mount (v : State) (k : CommitJob) (c : Byte) (key : Key) (n : Nat) (b : Bool) :
    (jobReported v k c key n b).mount = v.mount := by
  unfold jobReported
  dsimp only
  by_cases ho : (v.row k.link).orphaned = true
  · rw [if_pos ho]; rfl
  · rw [if_neg ho]
    by_cases hm : v.mount.mode = .halted
    · rw [if_pos hm]; cases (v.link k.link).held <;> rfl
    · rw [if_neg hm]; cases (v.link k.link).held <;> rfl

/-- The end of a job leaves the mount unit as it is. -/
theorem jobEnded_mount (v : State) (k : CommitJob) (c : Byte) (key : Key) (n : Nat) (b : Bool) :
    (jobEnded v k c key n b).mount = v.mount := by
  unfold jobEnded atLowWater
  split <;> exact jobReported_mount v k c key n b

theorem jobReported_setQueue (s : State) (q : List CommitJob) (j : CommitJob) (code : Byte) (key : Key) (n : Nat) (b : Bool) :
    jobReported (s.setQueue q) j code key n b = (jobReported s j code key n b).setQueue q := by
  unfold jobReported
  dsimp only
  by_cases ho : (s.row j.link).orphaned = true
  · rw [if_pos (by exact ho), if_pos ho]; rfl
  · rw [if_neg (by exact ho), if_neg ho]
    cases hh : (s.link j.link).held <;> rw [show ((s.setQueue q).link j.link).held = _ from hh] <;>
      by_cases hm : s.mount.mode = .halted
    · rw [if_pos (by exact hm), if_pos hm]; rfl
    · rw [if_neg (by exact hm), if_neg hm]; rfl
    · rw [if_pos (by exact hm), if_pos hm]; rfl
    · rw [if_neg (by exact hm), if_neg hm]; rfl

/-- What stands in the queue for a job that ends does not matter. -/
theorem jobEnded_setQueue (s : State) (q : List CommitJob) (j : CommitJob) (code : Byte) (key : Key) (n : Nat) (b : Bool)
    (h : q.filter (fun x => x.link != j.link) = s.commit.queue.filter fun x => x.link != j.link) :
    jobEnded (s.setQueue q) j code key n b = jobEnded s j code key n b := by
  unfold jobEnded
  rw [jobReported_setQueue, State.setQueue_setQueue, State.setQueue_commit, h]

/-- R103, the rest fits: the image of a head job is placed. -/
theorem commitPlace_placed {s t : State} {j j' : CommitJob} {others : List CommitJob} {img : Image} (hq : s.commit.queue = j :: others)
    (ho : ∀ x ∈ others, x.link ≠ j.link) (hl : j'.link = j.link)
    (hf : s.fits ((transactionSizes (s.row j'.link).staging).drop (j'.position - 1)) = true) (h : Placed (s.setQueue (j' :: others)) img t) :
    s.commitPlace j' img = t := by
  unfold State.commitPlace
  dsimp only
  rw [if_pos hf, State.setJob_head hq ho hl, (place_iff _ _ _).2 h]

/-- R103, R105: the rest no longer fits. -/
theorem commitPlace_short {s : State} {j : CommitJob} {img : Image} (hj : j.state.holdsArray = true)
    (hf : ¬ s.fits ((transactionSizes (s.row j.link).staging).drop (j.position - 1)) = true) :
    s.commitPlace j img = jobEnded (withWaste s j.written) j 0x60 (img.key?.getD 0) 0 false := by
  unfold State.commitPlace
  dsimp only
  rw [if_neg hf, endJob_eq _ _ _ _ hj]
  rfl

/-- R156, R157. -/
theorem formatEnds_eq (s : State) (mode : StoreMode) (r : Result) : s.formatEnds mode r = formatEnded s mode r.code := by
  have hl : ∀ u : State, u.restartLease .s = u.setRow .s (freshLease (u.row .s)) := by
    intro u
    unfold State.restartLease freshLease
    dsimp only
    split
    · rfl
    · simp
  have hw : ∀ u : State, atLowWater (u.setTenancy .none) = (atLowWater u).setTenancy .none := by
    intro u
    unfold atLowWater
    by_cases h : CycleWanted u
    · rw [if_pos (by exact h), if_pos h]; rfl
    · rw [if_neg (by exact h), if_neg h]
  unfold State.formatEnds formatEnded
  dsimp only
  rw [hl, lowWater_eq, hw]
  cases hh : (s.link .s).held with
  | none => rw [placeHeld_none (by exact hh)]; rfl
  | some h => rw [placeHeld_some (by exact hh)]; rfl

end Sys2Proof.Laws
end

