-- ==== Sys2Proof/Laws/Scan.lean ====
section
/-!
SUPPORT. The scan's shared operations: what the heads give (R139, R140), what the replay leaves of the array's bytes (R141, R142), the order
of the walk, and the closing of sectors after it (R143).
-/

namespace Sys2Proof.Laws

open Sys2Proof.Machine Sys2Proof.Safety

/-! ### Heads (R139, R140) -/

theorem mem_headsOf {m : Memory} {h : Sector × Head} : h ∈ headsOf m ↔ h = (h.1, headOf m h.1) := by
  unfold headsOf allSectors
  rw [List.mem_map]
  constructor
  · rintro ⟨i, -, rfl⟩; rfl
  · intro h; exact ⟨_, List.mem_finRange _, h.symm⟩

/-- One step of the fold that finds the current epoch. -/
def laterEpoch (e : Option Word) (h : Sector × Head) : Option Word :=
  match e, h.2.eraseRecord with
  | none, r => r.map Prod.fst
  | some w, some (w', _) => if w.toNat < w'.toNat then some w' else some w
  | some w, none => some w

/-- The largest epoch of the valid erase records, from a start value on. -/
theorem laterEpoch_fold (l : List (Sector × Head)) : ∀ e0, let r := l.foldl laterEpoch e0
    (r = none ↔ e0 = none ∧ ∀ h ∈ l, h.2.eraseRecord = none) ∧
    (∀ w, r = some w → (e0 = some w ∨ ∃ h ∈ l, ∃ n, h.2.eraseRecord = some (w, n)) ∧ (∀ v, e0 = some v → v.toNat ≤ w.toNat) ∧
      ∀ h ∈ l, ∀ v n, h.2.eraseRecord = some (v, n) → v.toNat ≤ w.toNat) := by
  induction l with
  | nil =>
    intro e0
    refine ⟨by simp, fun w h => ⟨.inl h, fun v hv => ?_, fun h hh => nomatch hh⟩⟩
    have hvw : some v = some w := hv.symm.trans h
    cases hvw
    exact Nat.le_refl _
  | cons a l ih =>
    intro e0 r
    obtain ⟨i1, i2⟩ := ih (laterEpoch e0 a)
    unfold laterEpoch at i1 i2
    refine ⟨i1.trans ?_, fun w hw => ?_⟩
    · cases e0 with
      | none => cases ha : a.2.eraseRecord <;> simp [ha]
      | some w0 => cases ha : a.2.eraseRecord with
        | none => simp
        | some p => obtain ⟨w', n⟩ := p; dsimp only; split <;> simp
    · obtain ⟨h1, h2, h3⟩ := i2 w hw
      refine ⟨?_, ?_, ?_⟩
      · rcases h1 with h1 | ⟨h, hh, n, hn⟩
        · cases e0 with
          | none => cases ha : a.2.eraseRecord with
            | none => rw [ha] at h1; cases h1
            | some p => rw [ha] at h1; cases h1; exact .inr ⟨a, by simp, p.2, by rw [ha]⟩
          | some w0 => cases ha : a.2.eraseRecord with
            | none => rw [ha] at h1; exact .inl h1
            | some p =>
              obtain ⟨w', n⟩ := p
              rw [ha] at h1; dsimp only at h1; split at h1
              · cases h1; exact .inr ⟨a, by simp, n, by rw [ha]⟩
              · exact .inl h1
        · exact .inr ⟨h, by simp [hh], n, hn⟩
      · rintro v rfl
        cases ha : a.2.eraseRecord with
        | none => rw [ha] at h2; exact h2 v rfl
        | some p =>
          obtain ⟨w', n⟩ := p; rw [ha] at h2; dsimp only at h2
          split at h2
          · have := h2 _ rfl; omega
          · exact h2 _ rfl
      · intro h hh v n hv
        rcases List.mem_cons.1 hh with rfl | hh
        · rw [hv] at h2
          cases e0 with
          | none => exact h2 v rfl
          | some w0 =>
            dsimp only at h2
            split at h2
            · exact h2 _ rfl
            · have := h2 _ rfl; omega
        · exact h3 h hh v n hv

/-- R140: no current epoch where no sector has a valid erase record; otherwise the largest of them. -/
theorem currentEpoch_spec (m : Memory) :
    (currentEpoch (headsOf m) = none ↔ ∀ i, readEraseRecord m i = none) ∧
    ∀ w, currentEpoch (headsOf m) = some w →
      (∃ i n, readEraseRecord m i = some (w, n)) ∧ ∀ i e n, readEraseRecord m i = some (e, n) → e.toNat ≤ w.toNat := by
  obtain ⟨h1, h2⟩ := laterEpoch_fold (headsOf m) none
  refine ⟨h1.trans ⟨fun h i => h.2 (i, headOf m i) (mem_headsOf.2 rfl), fun h => ⟨rfl, fun x hx => ?_⟩⟩, fun w hw => ?_⟩
  · rw [mem_headsOf.1 hx]; exact h _
  · obtain ⟨h3, -, h5⟩ := h2 w hw
    refine ⟨?_, fun i e n h => h5 (i, headOf m i) (mem_headsOf.2 rfl) e n h⟩
    rcases h3 with h | ⟨h, hh, n, hn⟩
    · cases h
    · rw [mem_headsOf.1 hh] at hn
      exact ⟨h.1, n, hn⟩

/-- The largest erase count, from a start value on. -/
theorem largestCount_fold (l : List (Sector × Head)) :
    ∀ n0, let r := l.foldl (fun n h => max n ((h.2.eraseRecord.map Prod.snd).getD 0)) n0
    n0 ≤ r ∧ (r = n0 ∨ ∃ h ∈ l, ∃ e, h.2.eraseRecord = some (e, r)) ∧ ∀ h ∈ l, ∀ e n, h.2.eraseRecord = some (e, n) → n ≤ r := by
  induction l with
  | nil => intro n0; exact ⟨Nat.le_refl _, .inl rfl, fun h hh => nomatch hh⟩
  | cons a l ih =>
    intro n0 r
    obtain ⟨i1, i2, i3⟩ := ih (max n0 ((a.2.eraseRecord.map Prod.snd).getD 0))
    refine ⟨Nat.le_trans (Nat.le_max_left _ _) i1, ?_, ?_⟩
    · rcases i2 with i2 | ⟨h, hh, e, he⟩
      · by_cases hle : (a.2.eraseRecord.map Prod.snd).getD 0 ≤ n0
        · rw [Nat.max_eq_left hle] at i2
          left
          show List.foldl _ _ _ = _
          rw [List.foldl_cons, Nat.max_eq_left hle]
          exact i2
        · cases ha : a.2.eraseRecord with
          | none => rw [ha] at hle; simp at hle
          | some p =>
            right; refine ⟨a, by simp, p.1, ?_⟩
            rw [ha] at hle i2; simp at hle
            have : r = p.2 := by
              show List.foldl _ _ _ = _; rw [List.foldl_cons, ha]; refine i2.trans ?_; simp; omega
            rw [this]; exact ha
      · exact .inr ⟨h, by simp [hh], e, he⟩
    · intro h hh e n hn
      rcases List.mem_cons.1 hh with rfl | hh
      · refine Nat.le_trans (Nat.le_trans ?_ (Nat.le_max_right n0 _)) i1
        rw [hn]
        exact Nat.le_refl _
      · exact i3 h hh e n hn

/-- R139: L bounds every erase count and, where some sector has a valid erase record, is one. -/
theorem largestCount_spec (m : Memory) :
    (∀ i e n, readEraseRecord m i = some (e, n) → n ≤ largestCount (headsOf m)) ∧
    ((∃ i r, readEraseRecord m i = some r) → ∃ i e, readEraseRecord m i = some (e, largestCount (headsOf m))) := by
  obtain ⟨-, h2, h3⟩ := largestCount_fold (headsOf m) 0
  have hle : ∀ i e n, readEraseRecord m i = some (e, n) → n ≤ largestCount (headsOf m) := fun i e n h =>
    h3 (i, headOf m i) (mem_headsOf.2 rfl) e n h
  refine ⟨hle, ?_⟩
  rintro ⟨i, ⟨e, n⟩, hi⟩
  rcases h2 with h2 | ⟨h, hh, e', hn⟩
  · have h0 : largestCount (headsOf m) = 0 := h2
    have hn := hle i e n hi
    have hn0 : n = largestCount (headsOf m) := by omega
    exact ⟨i, e, by rw [hi, hn0]⟩
  · rw [mem_headsOf.1 hh] at hn
    exact ⟨h.1, e', hn⟩

/-- One step of the fold that finds the latest activation record. -/
def laterActivation (best : Option (Word × BitVec 48)) (a : Word × BitVec 48) : Option (Word × BitVec 48) :=
  match best with
  | none => some a
  | some b => if b.1.toNat < a.1.toNat then some a else some b

/-- The activation record of the highest sequence, from a start value on. -/
theorem latestActivation_fold (l : List (Word × BitVec 48)) : ∀ b0, let r := l.foldl laterActivation b0
    (r = none ↔ b0 = none ∧ l = []) ∧
    ∀ b, r = some b → (b0 = some b ∨ b ∈ l) ∧ (∀ c, b0 = some c → c.1.toNat ≤ b.1.toNat) ∧ ∀ a ∈ l, a.1.toNat ≤ b.1.toNat := by
  induction l with
  | nil =>
    intro b0
    refine ⟨by simp, fun b h => ⟨.inl h, fun v hv => ?_, fun h hh => nomatch hh⟩⟩
    have hvb : some v = some b := hv.symm.trans h
    cases hvb
    exact Nat.le_refl _
  | cons a l ih =>
    intro b0 r
    cases b0 with
    | none =>
      obtain ⟨i1, i2⟩ := ih (some a)
      refine ⟨i1.trans (by simp), fun b hb => ?_⟩
      obtain ⟨h1, h2, h3⟩ := i2 b hb
      refine ⟨?_, by simp, ?_⟩
      · rcases h1 with h1 | h1
        · cases h1; simp
        · simp [h1]
      · intro x hx; rcases List.mem_cons.1 hx with rfl | hx
        · exact h2 _ rfl
        · exact h3 x hx
    | some c =>
      obtain ⟨i1, i2⟩ := ih (if c.1.toNat < a.1.toNat then some a else some c)
      refine ⟨i1.trans (by split <;> simp), fun b hb => ?_⟩
      obtain ⟨h1, h2, h3⟩ := i2 b hb
      refine ⟨?_, ?_, ?_⟩
      · rcases h1 with h1 | h1
        · split at h1
          · cases h1; simp
          · exact .inl h1
        · simp [h1]
      · rintro x ⟨⟩; split at h2
        · have := h2 _ rfl; omega
        · exact h2 _ rfl
      · intro x hx; rcases List.mem_cons.1 hx with rfl | hx
        · split at h2
          · exact h2 _ rfl
          · have := h2 _ rfl; omega
        · exact h3 x hx

/-- R140: of several activation records the one of the highest sequence. -/
theorem latestActivation_spec (l : List (Word × BitVec 48)) :
    (latestActivation l = none ↔ l = []) ∧
    ∀ b, latestActivation l = some b → b ∈ l ∧ ∀ a ∈ l, a.1.toNat ≤ b.1.toNat := by
  obtain ⟨h1, h2⟩ := latestActivation_fold l none
  refine ⟨h1.trans (by simp), fun b hb => ?_⟩
  obtain ⟨h3, -, h5⟩ := h2 b hb
  refine ⟨?_, h5⟩
  rcases h3 with h | h
  · cases h
  · exact h

theorem inEpoch_inUse (epoch : Word) (h : Head) :
    Head.inEpoch epoch h = .inUse ↔ h.cls = .inUse ∧ h.eraseRecord.map Prod.fst = some epoch := by
  unfold Head.inEpoch
  by_cases hx : h.eraseRecord.map Prod.fst = some epoch <;> cases h.cls <;> simp [hx]

theorem classify_ne_staleEpoch (m : Memory) (i : Sector) : classify m i ≠ .staleEpoch := by
  unfold classify
  repeat' split
  all_goals decide

theorem activation_of_inUse {m : Memory} {i : Sector} (h : classify m i = .inUse) : (readActivation m i).isSome = true := by
  unfold classify at h
  split at h
  · split at h <;> cases h
  · split at h
    · split at h
      · cases h
      · split at h
        · assumption
        · cases h
    · cases h

theorem inEpoch_current {epoch : Word} {m : Memory} {i : Sector} (h : (readEraseRecord m i).map Prod.fst = some epoch) :
    Head.inEpoch epoch (headOf m i) = classify m i := by
  have h1 : (headOf m i).eraseRecord.map Prod.fst = some epoch := h
  have h2 : (headOf m i).cls = classify m i := rfl
  unfold Head.inEpoch
  rw [if_pos h1, if_pos h1, h2]
  generalize classify m i = c
  cases c <;> rfl

theorem inEpoch_other {epoch : Word} {m : Memory} {i : Sector} (h : ¬ (readEraseRecord m i).map Prod.fst = some epoch) :
    Head.inEpoch epoch (headOf m i) =
      if classify m i = .damaged then .damaged else if classify m i = .blank then .blank else .staleEpoch := by
  have h1 : ¬ (headOf m i).eraseRecord.map Prod.fst = some epoch := h
  have h2 : (headOf m i).cls = classify m i := rfl
  unfold Head.inEpoch
  rw [if_neg h1, if_neg h1, h2]
  generalize classify m i = c
  cases c <;> rfl

/-- The activation records of the IN-USE sectors of an epoch (R140). -/
theorem mem_activations {m : Memory} {epoch : Word} {a : Word × BitVec 48} :
    a ∈ activations epoch (headsOf m) ↔
      ∃ i, (classify m i = .inUse ∧ (readEraseRecord m i).map Prod.fst = some epoch) ∧ readActivation m i = some a := by
  unfold activations
  rw [List.mem_filterMap]
  constructor
  · rintro ⟨h, hh, h2⟩
    rw [mem_headsOf.1 hh] at h2
    split at h2
    · rename_i h3
      exact ⟨h.1, (inEpoch_inUse _ _).1 h3, h2⟩
    · cases h2
  · rintro ⟨i, h1, h2⟩
    refine ⟨(i, headOf m i), mem_headsOf.2 rfl, ?_⟩
    rw [if_pos ((inEpoch_inUse _ _).2 h1)]
    exact h2

/-- What the heads give the part (R139, R140). -/
theorem takeHeads_spec (s : State) (epoch : Word) (heads : List (Sector × Head)) :
    let t := s.takeHeads epoch heads
    t.array.epoch = some epoch ∧ t.array.mem = s.array.mem ∧ t.directory = s.directory ∧ t.mount.scan.largest = largestCount heads ∧
    t.array.retiredSet = ((latestActivation (activations epoch heads)).map Prod.snd).getD 0 ∧
    t.array.recorded = (latestActivation (activations epoch heads)).isSome ∧
    t.mount.scan.highestSeq = ((latestActivation (activations epoch heads)).map Prod.fst).getD 0 ∧
    t.mount.scan.todo = repairTasks epoch t.array.retiredSet heads ∧
    ∀ i, t.sec i = headRow epoch t.array.retiredSet (largestCount heads) i (headOf s.array.mem i) := by
  intro t
  have ht : t = _ := State.takeHeads.eq_1 s epoch heads
  dsimp only at ht
  generalize hL : largestCount heads = L at *
  generalize hl : latestActivation (activations epoch heads) = la at *
  generalize hr : Option.getD (Option.map Prod.snd la) 0 = rs at *
  generalize hT : (Vector.ofFn fun i => headRow epoch rs L i (headOf s.array.mem i)) = T at ht
  clear_value t
  have hs : ∀ i, t.sec i = headRow epoch rs L i (headOf s.array.mem i) := by
    intro i
    rw [ht, State.setMount_sec, State.setRetired_sec, State.setEpoch_sec]
    unfold State.sec State.setTable State.setArray
    rw [← hT]
    simp
  have h5 : t.array.retiredSet = rs := by rw [ht]; rfl
  refine ⟨?_, ?_, ?_, ?_, h5, ?_, ?_, ?_, by rw [h5]; exact hs⟩ <;> (rw [ht]; rfl)

/-! ### The replay (R141, R142) -/

/-- R144: dead images are waste of their sectors. -/
def withDead (s : State) (l : List (Image × Location)) : State :=
  l.foldl (fun u x => u.setSec x.2.sector { u.sec x.2.sector with waste := (u.sec x.2.sector).waste + x.1.units }) s

theorem see_eq (r : Replay) (n : Word) : r.see n = { r with highest := if r.highest.toNat < n.toNat then n else r.highest } := by
  unfold Replay.see
  split <;> rfl

theorem dead_eq (r : Replay) (l : List (Image × Location)) : r.dead l = { r with part := withDead r.part l } := rfl

/-- The images listed of the pending transaction, if any. -/
def listed (r : Replay) : List (Image × Location) :=
  match r.pending with
  | some p => p.images
  | none => []

theorem drop_eq (r : Replay) : r.drop = { r with pending := none, part := withDead r.part (listed r) } := by
  unfold Replay.drop
  obtain ⟨part, pending, broken, highest, torn⟩ := r
  cases pending <;> rfl

theorem withDead_append (s : State) (l m : List (Image × Location)) : withDead s (l ++ m) = withDead (withDead s l) m := by
  unfold withDead
  rw [List.foldl_append]

/-- `t` has the bytes of `s`. -/
def SameBytes (s t : State) : Prop :=
  t.array.mem = s.array.mem

theorem SameBytes.next {a b c : State} (h : SameBytes a b) (g : SameBytes b c) : SameBytes a c := Eq.trans g h

theorem takeImage_bytes (s : State) (k : Key) (b : EntryBody) (g : Word) (l : Location) : SameBytes s (s.takeImage k b g l) := by
  unfold SameBytes
  rw [(takeImage_frame s k b g l).1]

theorem offer_bytes (s : State) (img : Image) (loc : Location) : SameBytes s (s.offer img loc) := by
  unfold State.offer
  split
  · split
    · split
      · exact takeImage_bytes _ _ _ _ _
      · rfl
    · split
      · exact takeImage_bytes _ _ _ _ _
      · rfl
  · rfl

theorem foldl_bytes {α : Type} (f : State → α → State) (h : ∀ s a, SameBytes s (f s a)) (l : List α) (s : State) :
    SameBytes s (l.foldl f s) := by
  induction l generalizing s with
  | nil => rfl
  | cons a l ih => exact (h s a).next (ih _)

theorem withDead_bytes (s : State) (l : List (Image × Location)) : SameBytes s (withDead s l) :=
  foldl_bytes (fun (u : State) (x : Image × Location) => u.addWaste x.2.sector x.1.units) (fun _ _ => rfl) l s

theorem drop_bytes (r : Replay) : SameBytes r.part r.drop.part := by
  rw [drop_eq]
  exact withDead_bytes _ _

theorem commitImage_bytes (r : Replay) (img : Image) (loc : Location) : SameBytes r.part (r.commitImage img loc).part := by
  unfold Replay.commitImage
  dsimp only
  split
  · rw [dead_eq]; exact (drop_bytes r).next (withDead_bytes _ _)
  · split
    · split
      · split
        · rfl
        · rw [dead_eq]; exact (drop_bytes r).next (withDead_bytes _ _)
      · exact drop_bytes r
    · rfl

theorem see_part (r : Replay) (n : Word) : (r.see n).part = r.part := by
  rw [see_eq]

theorem image_bytes (r : Replay) (img : Image) (loc : Location) : SameBytes r.part (r.image img loc).part := by
  have h1 : ∀ n, SameBytes r.part ((r.see n).commitImage img loc).part := fun n => by
    have h := commitImage_bytes (r.see n) img loc
    rwa [see_part] at h
  have h2 : ∀ n, SameBytes r.part (r.see n).drop.part := fun n => by
    have h := drop_bytes (r.see n)
    rwa [see_part] at h
  unfold Replay.image
  split
  · exact h1 _
  · exact h1 _
  · rename_i n c
    unfold Replay.mark
    split
    · split
      · rename_i p _ _
        show SameBytes r.part (p.images.foldl (fun s q => s.offer q.1 q.2) (r.see n).part)
        rw [see_part]
        exact foldl_bytes _ (fun s (a : Image × Location) => offer_bytes s a.1 a.2) p.images r.part
      · exact h2 _
    · rw [see_part]; rfl
  · exact (h2 _).next (offer_bytes _ _ _)
  · exact (h2 _).next (offer_bytes _ _ _)

theorem sector_bytes (i : Sector) : ∀ (n u : Nat) (r : Replay), SameBytes r.part (Replay.sector i n u r).part := by
  intro n
  induction n with
  | zero => intro u r; rfl
  | succ n ih =>
    intro u r
    rw [Replay.sector]
    split
    · rfl
    · split
      · exact (image_bytes _ _ _).next (ih _ _)
      · exact (show SameBytes r.part (r.part.addWaste i 1) from rfl).next (ih _ _)
      · rfl
      · rfl

theorem sectors_bytes (l : List Sector) :
    ∀ r : Replay, SameBytes r.part (l.foldl (fun r i => Replay.sector i (Config.sectorUnits + 1) 2 r) r).part := by
  induction l with
  | nil => intro r; rfl
  | cons a l ih => intro r; exact (sector_bytes _ _ _ _).next (ih _)

/-- The replay programs nothing. -/
theorem replayOf_bytes (s : State) (l : List Sector) : SameBytes s (replayOf s l).part := by
  unfold replayOf
  exact (sectors_bytes _ _).next (drop_bytes _)

/-! ### The order of the walk and its end (R141, R143) -/

/-- R38, R143: the row of a closed sector. -/
def closedRow (r : SectorRow) : SectorRow :=
  { r with state := .full, waste := r.waste + (256 - r.nextFree), nextFree := 256 }

/-- R143: every sector of the list is closed, every other one stays. -/
theorem deadTails_sec (l : List Sector) :
    ∀ (u : State) (k : Sector), (l.foldl State.deadTail u).sec k = if k ∈ l then closedRow (u.sec k) else u.sec k := by
  induction l with
  | nil => intro u k; simp
  | cons a l ih =>
    intro u k
    have hstep : (u.deadTail a).sec k = if k = a then closedRow (u.sec k) else u.sec k := by
      unfold State.deadTail
      rw [closeSector_eq, withClosed, State.setSec_sec]
      split
      · subst_vars; rfl
      · rfl
    rw [List.foldl_cons, ih, hstep]
    by_cases hka : k = a
    · subst hka
      by_cases hl : k ∈ l <;> simp [hl, closedRow]
    · by_cases hl : k ∈ l <;> simp [hl, hka]

theorem deadTails_table (l : List Sector) : ∀ u : State, ∃ x, l.foldl State.deadTail u = u.setTable x := by
  induction l with
  | nil => exact fun u => ⟨u.array.table, rfl⟩
  | cons a l ih => intro u; obtain ⟨x, hx⟩ := ih (u.deadTail a); exact ⟨x, hx⟩

theorem insertBySequence_perm (s : State) (i : Sector) (l : List Sector) : (insertBySequence s i l).Perm (i :: l) := by
  induction l with
  | nil => exact .refl _
  | cons a l ih =>
    unfold insertBySequence
    split
    · exact .refl _
    · exact (ih.cons a).trans (.swap _ _ _)

/-- R141: in ascending sequence. -/
def BySequence (s : State) (l : List Sector) : Prop :=
  l.Pairwise fun a b => s.sequenceOf a ≤ s.sequenceOf b

theorem insertBySequence_sorted (s : State) (i : Sector) (l : List Sector) (h : BySequence s l) :
    BySequence s (insertBySequence s i l) := by
  induction l with
  | nil => simp [insertBySequence, BySequence]
  | cons a l ih =>
    obtain ⟨h1, h2⟩ := List.pairwise_cons.1 h
    unfold insertBySequence
    split
    · rename_i hlt
      refine List.pairwise_cons.2 ⟨fun x hx => ?_, h⟩
      rcases List.mem_cons.1 hx with rfl | hx
      · omega
      · have := h1 x hx; omega
    · rename_i hnl
      refine List.pairwise_cons.2 ⟨fun x hx => ?_, ih h2⟩
      rcases List.mem_cons.1 ((insertBySequence_perm s i l).mem_iff.1 hx) with rfl | hx
      · omega
      · exact h1 x hx

/-- R141: the sectors of the list, in ascending sequence. -/
theorem sortBySequence_spec (s : State) (l : List Sector) :
    (sortBySequence s l).Perm l ∧ BySequence s (sortBySequence s l) := by
  have main : ∀ (l acc : List Sector), BySequence s acc →
      (l.foldl (fun sorted i => insertBySequence s i sorted) acc).Perm (l ++ acc) ∧
        BySequence s (l.foldl (fun sorted i => insertBySequence s i sorted) acc) := by
    intro l
    induction l with
    | nil => exact fun acc h => ⟨.refl _, h⟩
    | cons a l ih =>
      intro acc h
      obtain ⟨i1, i2⟩ := ih _ (insertBySequence_sorted s a acc h)
      exact ⟨i1.trans (((insertBySequence_perm s a acc).append_left l).trans List.perm_middle), i2⟩
  unfold sortBySequence
  obtain ⟨a, b⟩ := main l [] List.Pairwise.nil
  exact ⟨by simpa using a, b⟩

end Sys2Proof.Laws
end

