-- ==== Sys2Proof/Laws/ScanMoves.lean ====
section
/-!
SUPPORT. The scan, the format, the arbiter and the ends of operations are runs of moves.
-/

namespace Sys2Proof.Laws

open Sys2Proof.Machine Sys2Proof.Safety

/-- A run of moves that starts no operation and changes no sector's state: what a replay is until its end. -/
structure Walks (g : Prop) (s t : State) : Prop where
  moves : Moves g s t
  op : t.array.op = s.array.op
  states : ∀ i, (t.sec i).state = (s.sec i).state

namespace Walks

variable {g : Prop} {s t : State}

theorem refl (s : State) : Walks g s s := ⟨.refl, rfl, fun _ => rfl⟩

theorem noActive (h : Walks g s t) (hs : NoActive s) : NoActive t := by
  intro i
  have := hs i
  rw [State.inState] at this ⊢
  rw [h.states i, this]

theorem setSec (h : Walks g s t) (i : Sector) (r : SectorRow) (hr : r.state = (t.sec i).state) : Walks g s (t.setSec i r) :=
  ⟨h.moves.setSec i r fun e => hr ▸ e, h.op, fun k => by
    rw [State.setSec_sec]
    split
    · rename_i e; rw [hr, e, h.states i]
    · exact h.states k⟩

theorem setReclaim (h : Walks g s t) (r : Reclaimer) : Walks g s (t.setReclaim r) := ⟨h.moves.setReclaim r, h.op, h.states⟩

theorem addWaste (h : Walks g s t) (i : Sector) (n : Nat) : Walks g s (t.addWaste i n) := h.setSec _ _ rfl

theorem foldl {α : Type} {f : State → α → State} (hf : ∀ {u : State} (a : α), Walks g s u → Walks g s (f u a)) (h : Walks g s t)
    (l : List α) : Walks g s (l.foldl f t) := by
  induction l generalizing t with
  | nil => exact h
  | cons a l ih => exact ih (hf a h)

theorem put (h : Walks g s t) (e : DirEntry) : Walks g s (t.setDirectory (Directory.put t.directory e)) :=
  ⟨h.moves.put e, h.op, h.states⟩

theorem update (h : Walks g s t) (k : Key) (f : DirEntry → DirEntry) : Walks g s (t.setDirectory (Directory.update t.directory k f)) :=
  ⟨h.moves.update k f, h.op, h.states⟩

theorem takeImage (h : Walks g s t) (k : Key) (b : EntryBody) (n : Word) (loc : Location) : Walks g s (t.takeImage k b n loc) := by
  unfold State.takeImage
  split
  · exact h.put _
  · unfold State.supersede
    split
    · rename_i heq
      split at heq
      · cases heq; exact (h.addWaste _ _).put _
      · cases heq; exact h.put _

theorem offer (h : Walks g s t) (img : Image) (loc : Location) : Walks g s (t.offer img loc) := by
  unfold State.offer
  split
  · split
    · split
      · exact h.takeImage _ _ _ _
      · exact h.addWaste _ _
    · split
      · exact h.takeImage _ _ _ _
      · exact (h.addWaste _ _).update _ _
  · exact h

/-! ### The replay (R141 to R144) -/

variable {r : Replay}

theorem dead (h : Walks g s r.part) (l : List (Image × Location)) : Walks g s (r.dead l).part := foldl (fun _ h => h.addWaste _ _) h l

theorem drop (h : Walks g s r.part) : Walks g s r.drop.part := by
  unfold Replay.drop
  split
  · exact h.dead _
  · exact h

theorem see (h : Walks g s r.part) (n : Word) : Walks g s (r.see n).part := by
  unfold Replay.see
  split <;> exact h

theorem commitImage (h : Walks g s r.part) (img : Image) (loc : Location) : Walks g s (r.commitImage img loc).part := by
  unfold Replay.commitImage
  dsimp only
  split
  · exact h.drop.dead _
  · split
    · split
      · split
        · exact h
        · exact h.drop.dead _
      · exact h.drop
    · exact h

theorem mark (h : Walks g s r.part) (n : Word) (c : Nat) (loc : Location) : Walks g s (r.mark n c loc).part := by
  unfold Replay.mark
  split
  · split
    · exact (foldl (fun _ h => h.offer _ _) h _).setReclaim _
    · exact h.drop
  · exact h

theorem image (h : Walks g s r.part) (img : Image) (loc : Location) : Walks g s (r.image img loc).part := by
  unfold Replay.image
  split
  · exact (h.see _).commitImage _ _
  · exact (h.see _).commitImage _ _
  · exact (h.see _).mark _ _ _
  · dsimp only
    exact (h.see _).drop.offer _ _
  · dsimp only
    exact (h.see _).drop.offer _ _

theorem leave (h : Walks g s r.part) (i : Sector) (u : Nat) : Walks g s (r.leave i u).part := h.setSec _ _ rfl
theorem tear (h : Walks g s r.part) (i : Sector) (u : Nat) : Walks g s (r.tear i u).part := h.setSec _ _ rfl

theorem sector (i : Sector) (n u : Nat) (h : Walks g s r.part) : Walks g s (Replay.sector i n u r).part := by
  induction n generalizing u r with
  | zero => exact h.leave _ _
  | succ n ih =>
    unfold Replay.sector
    split
    · exact h.leave _ _
    · split
      · exact ih _ (h.image _ _)
      · exact ih _ (h.addWaste _ _)
      · exact h.leave _ _
      · exact h.tear _ _

theorem replayOf (s : State) (l : List Sector) : Walks g s (Machine.replayOf s l).part := by
  unfold Machine.replayOf
  refine drop ?_
  generalize sortBySequence s l = l'
  have : ∀ r : Replay, Walks g s r.part → Walks g s (l'.foldl (fun r i => Replay.sector i (Config.sectorUnits + 1) 2 r) r).part := by
    induction l' with
    | nil => exact fun r h => h
    | cons a l' ih => exact fun r h => ih _ (h.sector _ _ _)
  exact this _ (refl s)

end Walks

namespace Moves

variable {g : Prop} {s t : State}

/-! ### The scan (R139 to R148) -/

theorem noActive_closeSector (h : NoActive t) (i : Sector) : NoActive (t.closeSector i) := by
  intro k
  have := h k
  rw [State.inState] at this ⊢
  unfold State.closeSector
  rw [State.setSec_sec]
  split
  · rfl
  · exact this

theorem finishLatest (h : Moves g s t) (i : Sector) (ha : NoActive t) (ho : t.array.op = none) : Moves g s (t.finishLatest i).1 := by
  unfold State.finishLatest
  dsimp only
  split
  · exact h
  · split
    · exact h.snoc (.found t i _ ha ho)
    · exact h.closeSector i

theorem scanReplay (h : Moves g s t) (ha : NoActive t) (ho : t.array.op = none) : Moves g s t.scanReplay := by
  unfold State.scanReplay
  dsimp only
  have hw := Walks.replayOf (g := g) t t.replaySectors
  have hm : Moves g s (Machine.replayOf t t.replaySectors).part := h.trans hw.moves
  have hna := hw.noActive ha
  have hop : (Machine.replayOf t t.replaySectors).part.array.op = none := hw.op.trans ho
  have hc : ∀ (l : List Sector) (u : State), Moves g s u → NoActive u → u.array.op = none →
      Moves g s (l.foldl State.deadTail u) ∧ NoActive (l.foldl State.deadTail u) ∧ (l.foldl State.deadTail u).array.op = none := by
    intro l
    induction l with
    | nil => exact fun u h1 h2 h3 => ⟨h1, h2, h3⟩
    | cons i l ih => exact fun u h1 h2 h3 => ih _ (h1.closeSector i) (noActive_closeSector h2 i) h3
  refine Moves.setMount (Moves.setNextSeq (Moves.setNextTxn ?_ _) _) _
  split
  · obtain ⟨h1, h2, h3⟩ := hc (t.replaySectors.filter fun i => _ != some i) _ hm hna hop
    exact h1.finishLatest _ h2 h3
  · exact (hc _ _ hm hna hop).1

theorem scanEnds (h : Moves g s t) (m : StoreMode) : Moves g s (t.scanEnds m) :=
  (((h.setMode m).startedNotice.setMount _).setTenancy _).lowWater

theorem repairNext (l : List RepairTask) (h : Moves g s t) : Moves g s (State.repairNext l t) := by
  induction l generalizing t with
  | nil => exact h.scanEnds _
  | cons k l ih =>
    unfold State.repairNext
    dsimp only
    have h' := ((h.setMount _ : Moves g s (t.setRepairFlags k.kind)).setEraseCount k.sector (t.repairCount k)).setMount
      { ((t.setRepairFlags k.kind).setEraseCount k.sector (t.repairCount k)).mount with
        scan := { ((t.setRepairFlags k.kind).setEraseCount k.sector (t.repairCount k)).mount.scan with todo := l } }
    split
    · exact h'.startOp _ nofun
    · exact h'.startOp _ nofun
    · exact .ite (fun _ => ih (h'.retire _ _)) fun _ => h'.startOp _ nofun
    · exact .ite (fun _ => ih (h'.retire _ _)) fun _ => h'.startOp _ nofun

theorem repairGoesOn (h : Moves g s t) : Moves g s t.repairGoesOn := repairNext _ h

theorem headRow_state (e : Word) (r : BitVec 48) (n : Nat) (i : Sector) (x : Head) : (headRow e r n i x).state ≠ .active := by
  unfold headRow
  dsimp only
  split
  · nofun
  · split <;> nofun

/-- R139, R140: after the heads no sector is ACTIVE. -/
theorem takeHeads (h : Moves g s t) (e : Word) (l : List (Sector × Head)) :
    Moves g s (t.takeHeads e l) ∧ NoActive (t.takeHeads e l) ∧ (t.takeHeads e l).array.op = t.array.op := by
  have key : ∀ V : SectorTable, (∀ i : Sector, V[i.val].state ≠ .active) → ∀ x r b m,
      Moves g s ((((t.setTable V).setEpoch x).setRetired r b).setMount m) ∧
        NoActive ((((t.setTable V).setEpoch x).setRetired r b).setMount m) ∧
        ((((t.setTable V).setEpoch x).setRetired r b).setMount m).array.op = t.array.op := by
    intro V hV x r b m
    refine ⟨(((h.snoc (.table t V hV)).setEpoch _).setRetired _ _).setMount _, fun i => ?_, rfl⟩
    have := hV i
    simpa [State.inState] using this
  exact key _ (fun i => by rw [Vector.getElem_ofFn]; exact headRow_state _ _ _ _ _) _ _ _ _

theorem initialise (h : Moves g s t) : Moves g s t.initialise := repairNext _ ((h.setEpoch _).setMount _)

theorem unformatted (h : Moves g s t) : Moves g s t.unformatted :=
  (h.snoc (.table t _ fun i => by simp)).scanEnds _

theorem scan (h : Moves g s t) (ho : t.array.op = none) : Moves g s t.scan := by
  unfold State.scan
  dsimp only
  split
  · exact .ite (fun _ => h.initialise) fun _ => h.unformatted
  · rename_i e _
    obtain ⟨h1, h2, h3⟩ := takeHeads h e (headsOf t.array.mem)
    exact (h1.scanReplay h2 (h3.trans ho)).repairGoesOn

theorem scanStops (h : Moves g s t) : Moves g s t.scanStops := (h.setMount _).setTenancy _

/-! ### The format (R155 to R158) -/

theorem abandonCycle (h : Moves g s t) : Moves g s t.abandonCycle := h.setReclaim _

theorem formatEnds (h : Moves g s t) (m : StoreMode) (r : Result) : Moves g s (t.formatEnds m r) :=
  (((((h.setMode m).placeHeld _ _ _).restartLease _).setMount _).setTenancy _).lowWater

theorem formatCompletes (h : Moves g s t) : Moves g s t.formatCompletes := by
  unfold State.formatCompletes
  dsimp only
  have h1 := h.clearDirectory
  have h2 : Moves g s (if ((t.setDirectory []).row .s).holdsSession = true then
      (t.setDirectory []).setRow .s { (t.setDirectory []).row .s with staging := [], watch := [] } else t.setDirectory []) :=
    ite (fun _ => h1.setRow _ _ (.inr (.inl rfl)) (.inl rfl)) fun _ => h1
  exact (((h2.setNextTxn _).setNextSeq _).setRetired _ _).formatEnds _ _

theorem rejoin (h : Moves g s t) : Moves g s t.rejoin := h.setReclaim _

theorem formatFails (h : Moves g s t) (f : FormatRecord) : Moves g s (t.formatFails f) := by
  unfold State.formatFails
  dsimp only
  exact (ite (fun _ => h.rejoin.storeModeNotice _) fun _ => h.rejoin).formatEnds _ _

theorem formatUnwinds (h : Moves g s t) (f : FormatRecord) : Moves g s (t.formatUnwinds f) := by
  unfold State.formatUnwinds
  dsimp only
  have h' := ((h.setEpoch f.previousEpoch).setFormat (some { f with stage := .unwinding })).filter fun e => !e.dropPending
  split
  · exact .ite (fun _ => (h'.retire _ _).formatFails _) fun _ => .ite (fun _ => (h'.retire _ _).formatFails _) fun _ =>
      h'.startOp _ nofun
  · exact h'.formatFails _

theorem formatSecond (f : FormatRecord) (l : List Sector) (h : Moves g s t) : Moves g s (State.formatSecond f l t) := by
  induction l generalizing t with
  | nil => exact h.formatCompletes
  | cons i l ih =>
    unfold State.formatSecond
    exact .ite (fun _ => ih (h.retire _ _)) fun _ => (h.setFormat _).startOp _ nofun

theorem formatFirst (f : FormatRecord) (l : List Sector) (h : Moves g s t) : Moves g s (State.formatFirst f l t) := by
  induction l generalizing t with
  | nil =>
    unfold State.formatFirst
    exact .ite (fun _ => formatSecond _ _ h) fun _ => h.formatUnwinds _
  | cons i l ih =>
    unfold State.formatFirst
    exact .ite (fun _ => ih (h.retire _ _)) fun _ => (h.setFormat _).startOp _ nofun

theorem grantFormat (h : Moves g s t) (f : FormatRecord) : Moves g s (t.grantFormat f) := by
  unfold State.grantFormat
  dsimp only
  split
  all_goals first
    | exact formatSecond _ _ (((h.abandonCycle.setEpoch _).setMount _).setTenancy _)
    | exact formatFirst _ _ (((h.abandonCycle.setEpoch _).setMount _).setTenancy _)

theorem formatGoesOn (h : Moves g s t) (ok : Bool) : Moves g s (t.formatGoesOn ok) := by
  unfold State.formatGoesOn
  split
  · exact h
  · split
    · exact h
    · exact h.formatFails _
    · exact formatFirst _ _ h
    · exact formatSecond _ _ h

theorem formatStops (h : Moves g s t) : Moves g s t.formatStops := (h.setMount _).setTenancy _

/-! ### The arbiter (R46 to R48) -/

theorem grant (h : Moves g s t) (c : Claim) : Moves g s (t.grant c) := by
  cases c with
  | format f => exact h.grantFormat f
  | move => exact h.grantMove
  | erase v => exact h.grantErase v
  | commit j => exact h.grantCommit j

theorem settleFor (n : Nat) (h : Moves g s t) : Moves g s (State.settleFor n t) := by
  induction n generalizing t with
  | zero => exact h
  | succ n ih =>
    unfold State.settleFor
    split
    · split
      · exact ih (h.grant _)
      · exact h
    · exact h

theorem settle (h : Moves g s t) : Moves g s t.settle := settleFor _ h

/-! ### The ends of operations (R30) -/

theorem holderStops (h : Moves g s t) : Moves g s t.holderStops := by
  unfold State.holderStops
  split
  · split
    · exact h.endJob _ _ _
    · exact h
  · exact h.moveStops
  · exact h.scanStops
  · exact h.formatStops
  · exact h
  · exact h

theorem imageEnds (h : Moves g s t) (img : Image) (loc : Location) (o : OpOutcome) (ok : Bool) : Moves g s (t.imageEnds img loc o ok) := by
  unfold State.imageEnds
  split
  · split
    · exact .ite (fun _ => (h.imageDone _ _).commitImageDone _ _ _) fun _ => (h.imageFailed _ _ _).commitImageFailed _ _
    · exact h
  · split
    · refine .ite (fun _ => ?_) fun _ => ?_
      · exact .ite (fun _ => (h.imageDone _ _).copyDoneStopped _ _) fun _ => (h.imageDone _ _).copyDone _ _ _
      · exact .ite (fun _ => (h.imageFailed _ _ _).moveStops) fun _ => (h.imageFailed _ _ _).copyFailed _ _ _
    · exact h
  all_goals exact h

theorem activationFindsNone (h : Moves g s t) (img : Image) : Moves g s (t.activationFindsNone img) := by
  unfold State.activationFindsNone
  split
  · split
    · exact h.endJob _ _ _
    · exact h
  · split
    · exact h.moveEndsEarly _ _
    · exact h
  all_goals exact h

end Moves

end Sys2Proof.Laws
end

