-- ==== Sys2Proof/Laws/Staging.lean ====
section
/-!
SUPPORT. The staging pool: what staging an entry makes of a list's keys, length and bytes (R66, R69), and that it keeps law 2 where R72 finds
room.
-/

namespace Sys2Proof.Laws

open Sys2Proof.Machine Sys2Proof.Safety

theorem stage_keys (l : List StagedEntry) (e : StagedEntry) (h : l.Pairwise fun a b => a.key ≠ b.key) :
    (stage l e).Pairwise fun a b => a.key ≠ b.key := by
  unfold stage
  split
  · refine List.Pairwise.map _ (fun x y hxy => ?_) h
    split <;> split <;> simp_all
  · rename_i hn
    refine List.pairwise_append.2 ⟨h, by simp, ?_⟩
    intro a ha b hb
    simp only [List.mem_singleton] at hb; subst hb
    simpa using List.find?_eq_none.1 hn a ha

theorem mem_stage {l : List StagedEntry} {e x : StagedEntry} (h : x ∈ stage l e) : x = e ∨ x ∈ l := by
  unfold stage at h
  split at h
  · obtain ⟨y, hy, rfl⟩ := List.mem_map.1 h
    split
    · exact .inl rfl
    · exact .inr hy
  · rcases List.mem_append.1 h with h | h
    · exact .inr h
    · exact .inl (by simpa using h)

theorem stage_length (l : List StagedEntry) (e : StagedEntry) :
    (stage l e).length = if findStaged l e.key = none then l.length + 1 else l.length := by
  unfold stage; split <;> rename_i h <;> simp [h]

theorem stage_bytes (l : List StagedEntry) (e : StagedEntry) (h : l.Pairwise fun a b => a.key ≠ b.key) :
    stagedBytes (stage l e) + ((findStaged l e.key).map StagedEntry.bytes).getD 0 = stagedBytes l + e.bytes := by
  induction l with
  | nil => simp [stage, findStaged, stagedBytes]
  | cons x l ih =>
    obtain ⟨h1, h2⟩ := List.pairwise_cons.1 h
    have ih := ih h2
    by_cases hk : x.key = e.key
    · have hf : findStaged (x :: l) e.key = some x := by simp [findStaged, hk]
      have hs : stage (x :: l) e = e :: l := by
        unfold stage; rw [hf]; simp only [List.map_cons, hk, if_true]
        rw [List.map_congr_left (g := id), List.map_id]
        intro y hy
        rw [if_neg (fun hc => h1 y hy (hk.trans hc.symm))]; rfl
      rw [hf, hs]; simp [stagedBytes]; omega
    · have hf : findStaged (x :: l) e.key = findStaged l e.key := by simp [findStaged, hk]
      have hs : stage (x :: l) e = x :: stage l e := by
        unfold stage; rw [hf]; split <;> simp [hk]
      rw [hf, hs]; simp [stagedBytes] at ih ⊢; omega

theorem setRow_stagingLaw {s : State} (l : Link) (q : List StagedEntry) (h : StagingLaw s)
    (h1 : q.length ≤ 16) (h2 : q.Pairwise fun a b => a.key ≠ b.key) (h3 : ∀ e ∈ q, bodyInLimits e = true)
    (h4 : q.length + (s.row l.other).staging.length ≤ 24) (h5 : stagedBytes q + stagedBytes (s.row l.other).staging ≤ 1536)
    (r : SessionRow) (hr : r.staging = q) : StagingLaw (s.setRow l r) := by
  obtain ⟨a1, a2, a3, a4, a5⟩ := h
  refine ⟨fun x => ?_, fun x => ?_, fun x => ?_, ?_, ?_⟩
  · rw [State.setRow_row]; split
    · rw [hr]; exact h1
    · exact a1 x
  · rw [State.setRow_row]; split
    · rw [hr]; exact h2
    · exact a2 x
  · rw [State.setRow_row]; split
    · rw [hr]; exact h3
    · exact a3 x
  · cases l <;> simp [State.setRow_row, hr, Link.other] at h4 ⊢ <;> omega
  · cases l <;> simp [State.setRow_row, hr, Link.other] at h5 ⊢ <;> omega

theorem stagingLaw_pair {s : State} (h : StagingLaw s) (l : Link) : (s.row l).staging.length + (s.row l.other).staging.length ≤ 24 ∧
    stagedBytes (s.row l).staging + stagedBytes (s.row l.other).staging ≤ 1536 := by
  obtain ⟨a1, a2, a3, a4, a5⟩ := h
  cases l <;> simp [Link.other] <;> omega

theorem poolFreeSlots_pair (s : State) (l : Link) : s.poolFreeSlots = 24 - ((s.row l).staging.length + (s.row l.other).staging.length) := by
  cases l <;> simp [State.poolFreeSlots, Config.poolSlots, Link.other] <;> omega

theorem poolFreeBytes_pair (s : State) (l : Link) :
    s.poolFreeBytes = 1536 - (stagedBytes (s.row l).staging + stagedBytes (s.row l.other).staging) := by
  cases l <;> simp [State.poolFreeBytes, Config.poolBytes, Link.other] <;> omega

theorem stage_stagingLaw {s : State} (l : Link) (e : StagedEntry) (h : StagingLaw s) (hb : bodyInLimits e = true)
    (hn : findStaged (s.row l).staging e.key = none → (s.row l).staging.length < 16 ∧ 1 ≤ s.poolFreeSlots)
    (hr : e.bytes ≤ s.poolFreeBytes + ((findStaged (s.row l).staging e.key).map StagedEntry.bytes).getD 0) :
    StagingLaw (s.setStaging l (stage (s.row l).staging e)) := by
  obtain ⟨b1, b2⟩ := stagingLaw_pair h l
  rw [poolFreeSlots_pair s l] at hn; rw [poolFreeBytes_pair s l] at hr
  have hk := h.2.1 l
  have hby := stage_bytes _ e hk
  have hl1 := h.1 l
  refine setRow_stagingLaw l _ h ?_ (stage_keys _ _ hk) ?_ ?_ ?_ _ rfl
  · rw [stage_length]; split
    · rename_i hc; have := hn hc; omega
    · exact hl1
  · intro x hx; rcases mem_stage hx with rfl | hx
    · exact hb
    · exact h.2.2.1 l x hx
  · rw [stage_length]; split
    · rename_i hc; have := hn hc; omega
    · exact b1
  · omega

theorem stagedBytes_sublist {l m : List StagedEntry} (h : l.Sublist m) : stagedBytes l ≤ stagedBytes m := by
  induction h with
  | slnil => exact Nat.le_refl _
  | cons a _ ih => simp [stagedBytes] at ih ⊢; omega
  | cons_cons a _ ih => simp [stagedBytes] at ih ⊢; omega

end Sys2Proof.Laws
end

