-- ==== Sys2Proof/Laws/StepMoves.lean ====
section
/-!
SUPPORT. The meaning of every command, and the step, is a run of moves.
-/

namespace Sys2Proof.Laws.Moves

open Sys2Proof.Machine Sys2Proof.Safety

variable {g : Prop} {s t : State} {l : Link}

/-! ### The ends of operations (R30 to R33, R40) -/

theorem noActive_activationFailed (h : NoActive t) (i : Sector) : NoActive (t.activationFailed i) := by
  intro k
  have := h k
  rw [State.inState] at this ⊢
  unfold State.activationFailed
  rw [State.retire_sec]
  split
  · rfl
  · simpa [State.raiseSeq, State.scribbleUnits, State.scribble] using this

theorem activationEnds (h : Moves g s t) {i : Sector} {img : Image} (o : OpOutcome) (ho : t.array.op = some (.activation i img))
    (hl : g → ActiveLaw t) : Moves g s (t.activationEnds i img o) := by
  unfold State.activationEnds
  refine .ite (fun _ => ?_) fun _ => ?_
  · exact .ite (fun _ => (h.activationDone ho).holderStops) fun _ => (h.activationDone ho).startOp _ nofun
  · refine .ite (fun _ => (h.activationFailed i).holderStops) fun _ => ?_
    have h' := (h.activationFailed i).tryActivate img fun hg => noActive_activationFailed ((hl hg).2 i img ho) i
    split
    · rename_i heq; rw [heq] at h'; exact h'
    · rename_i heq; rw [heq] at h'; exact h'.activationFindsNone img

theorem sectorTaken (h : Moves g s t) (i : Sector) (ok : Bool) : Moves g s (t.sectorTaken i ok) := by
  unfold State.sectorTaken
  split
  · exact h.endErasePhase i
  · exact .ite (fun _ => h.scanStops) fun _ => h.repairGoesOn
  · exact .ite (fun _ => h.formatStops) fun _ => h.formatGoesOn ok
  all_goals exact h

theorem eraseEnds (h : Moves g s t) (i : Sector) (o : OpOutcome) : Moves g s (t.eraseEnds i o) :=
  .ite (fun _ => h.eraseStepDone i) fun _ => (h.eraseStepFailed _ _).sectorTaken _ _

theorem eraseRecordEnds (h : Moves g s t) (i : Sector) (o : OpOutcome) : Moves g s (t.eraseRecordEnds i o) :=
  .ite (fun _ => (h.eraseRecordDone i).sectorTaken _ _) fun _ => (h.eraseRecordFailed _ _).sectorTaken _ _

theorem opEnds (h : Moves g s t) (o : OpOutcome) (ok : Bool) (hl : g → ActiveLaw t) : Moves g s (t.opEnds o ok) := by
  unfold State.opEnds
  split
  · exact (h.imageEnds _ _ _ _).settle
  · rename_i ho
    exact (h.activationEnds o ho hl).settle
  · exact (h.eraseEnds _ _).settle
  · exact (h.eraseRecordEnds _ _).settle
  · exact h

/-! ### The owners of requests: a reply has a place while fewer than 4 are taken -/

/-- R50: the number a new session takes is not the other row's. -/
theorem newSession_other (t : State) (l : Link) : (t.row l.other).number ≠ some (t.newSession l) := by
  unfold State.newSession
  split
  · rename_i h
    rw [h]
    unfold nextSession
    split
    · rename_i hf; rw [hf]; decide
    · intro he
      have := congrArg (fun o => o.getD 0) he
      simp at this
  · assumption

/-- R72: a change that is not refused for room has it. -/
theorem room_of_not_refused {isNew : Bool} {need freed : Nat} (h : ¬ roomRefused t l isNew need freed = true) :
    (isNew = true → (t.row l).staging.length < 16 ∧ 1 ≤ t.poolFreeSlots) ∧ need ≤ t.poolFreeBytes + freed := by
  simp only [roomRefused, Config.maxStaged, Bool.or_eq_true, Bool.and_eq_true, decide_eq_true_eq, beq_iff_eq, not_or, not_and] at h
  obtain ⟨h1, h2⟩ := h
  exact ⟨fun hn => by obtain ⟨h3, h4⟩ := h1 hn; exact ⟨Nat.not_le.1 fun h => h3 (decide_eq_true h), by omega⟩, by omega⟩

section owners

variable (hk : (t.link l).repliesTaken < 4) (sq : Byte)
include hk

theorem requestStatus (h : Moves g s t) : Moves g s (Machine.requestStatus l sq t) := h.answer _ _ _ _ _ hk

theorem requestNotices (h : Moves g s t) : Moves g s (Machine.requestNotices l sq t) := by
  unfold Machine.requestNotices
  split
  · exact h.refuse _ _ _ _ hk
  · exact (h.snoc (.seen t l)).answer _ _ _ _ _ hk

theorem requestAck (h : Moves g s t) (n : Byte) : Moves g s (Machine.requestAck l sq n t) := by
  unfold Machine.requestAck
  split
  · exact h.refuse _ _ _ _ hk
  · exact .ite (fun _ => h.answer _ _ _ _ _ hk) fun _ => (h.snoc (.ack t l n.toNat)).answer _ _ _ _ _ hk

theorem requestOpen (h : Moves g s t) (p r : Byte) : Moves g s (Machine.requestOpen l sq p r t) := by
  unfold Machine.requestOpen
  split
  · exact h.refuse _ _ _ _ hk
  · refine .ite (fun _ => h.refuse _ _ _ _ hk) fun _ => .ite (fun _ => h.refuse _ _ _ _ hk) fun _ => ?_
    split
    · exact h.refuse _ _ _ _ hk
    · refine .ite (fun _ => h.refuse _ _ _ _ hk) fun _ => .ite (fun _ => h.refuse _ _ _ _ hk) fun _ => ?_
      rename_i p' _ _ _
      have hr : Moves g s ((t.setSessionCounter (nextSession (t.newSession l))).setRow l (.fresh (t.newSession l) p' r)) :=
        (h.snoc (.counter t _)).setRow l _ (.inr (.inr fun e => newSession_other t l e.symm)) (.inl rfl)
      exact hr.answer _ _ _ _ _ hk

theorem requestRenew (h : Moves g s t) (p r : Byte) : Moves g s (Machine.requestRenew l sq p r t) := by
  unfold Machine.requestRenew
  split
  · exact h.refuse _ _ _ _ hk
  · refine .ite (fun _ => h.refuse _ _ _ _ hk) fun _ => ?_
    split
    · exact h.refuse _ _ _ _ hk
    · refine .ite (fun _ => h.refuse _ _ _ _ hk) fun _ => .ite (fun _ => h.refuse _ _ _ _ hk) fun _ => ?_
      rename_i p' _ _ _
      have hr : ∀ kept, (kept = [] ∨ kept = (t.row l).staging) →
          Moves g s (t.setRow l ({ t.row l with staging := kept }.withLease p' r)) := fun kept hs =>
        h.setRow l _ (.inr (.inl rfl)) hs
      refine (hr _ ?_).answer _ _ _ _ _ hk
      split
      · exact .inl rfl
      · exact .inr rfl

theorem requestClose (h : Moves g s t) : Moves g s (Machine.requestClose l sq t) := by
  unfold Machine.requestClose
  split
  · exact h.refuse _ _ _ _ hk
  · exact .ite (fun _ => h.refuse _ _ _ _ hk) fun _ => (h.endRow l).answer _ _ _ _ _ hk

theorem requestWatch (h : Moves g s t) (k : Key) : Moves g s (Machine.requestWatch l sq k t) := by
  unfold Machine.requestWatch
  have hr : ∀ w, Moves g s (t.setRow l { t.row l with watch := w }) := fun w => h.setRowKeeping l _ rfl rfl
  split
  · exact h.refuse _ _ _ _ hk
  · exact .ite (fun _ => h.refuse _ _ _ _ hk) fun _ => .ite (fun _ => h.refuse _ _ _ _ hk) fun _ =>
      .ite (fun _ => h.answer _ _ _ _ _ hk) fun _ => .ite (fun _ => h.answer _ _ _ _ _ hk) fun _ =>
        (hr _).answer _ _ _ _ _ hk

theorem requestUnwatch (h : Moves g s t) (k : Key) : Moves g s (Machine.requestUnwatch l sq k t) := by
  unfold Machine.requestUnwatch
  have hr : ∀ w, Moves g s (t.setRow l { t.row l with watch := w }) := fun w => h.setRowKeeping l _ rfl rfl
  split
  · exact h.refuse _ _ _ _ hk
  · exact .ite (fun _ => h.refuse _ _ _ _ hk) fun _ => .ite (fun _ => h.refuse _ _ _ _ hk) fun _ =>
      .ite (fun _ => (hr _).answer _ _ _ _ _ hk) fun _ => h.refuse _ _ _ _ hk

theorem answerRead (h : Moves g s t) (b : Bool) (n : Word) (k : Nat) (o : Half) (m : Byte) (body : Option (List Byte)) :
    Moves g s (t.answerRead l sq b n k o m body) := by
  unfold State.answerRead
  refine .ite (fun _ => h.answer _ _ _ _ _ hk) fun _ => ?_
  split <;> exact h.answer _ _ _ _ _ hk

theorem requestRead (h : Moves g s t) (k o : Half) (m : Byte) : Moves g s (Machine.requestRead l sq k o m t) := by
  unfold Machine.requestRead
  split
  · exact h.refuse _ _ _ _ hk
  · refine .ite (fun _ => h.refuse _ _ _ _ hk) fun _ => .ite (fun _ => h.refuse _ _ _ _ hk) fun _ => ?_
    split
    · unfold State.readStaged
      dsimp only
      split
      · exact h.answerRead hk _ _ _ _ _ _ _
      · exact h.answer _ _ _ _ _ hk
      · split
        · exact h.answerRead hk _ _ _ _ _ _ _
        all_goals exact h.answer _ _ _ _ _ hk
    · unfold State.readCommitted
      split
      · split
        · exact h.answerRead hk _ _ _ _ _ _ _
        · exact h.answer _ _ _ _ _ hk
      · exact h.answer _ _ _ _ _ hk

theorem requestList (h : Moves g s t) (k : Key) (n : Byte) : Moves g s (Machine.requestList l sq k n t) := by
  unfold Machine.requestList
  split
  · exact h.refuse _ _ _ _ hk
  · exact .ite (fun _ => h.refuse _ _ _ _ hk) fun _ => .ite (fun _ => h.refuse _ _ _ _ hk) fun _ => h.answer _ _ _ _ _ hk

/-! #### Staging -/

theorem stageEntry (h : Moves g s t) (k : ReqKind) (e : StagedEntry) (b : Bool) (hb : bodyInLimits e = true)
    (hn : findStaged (t.row l).staging e.key = none → (t.row l).staging.length < 16 ∧ 1 ≤ t.poolFreeSlots)
    (hr : e.bytes ≤ t.poolFreeBytes + ((findStaged (t.row l).staging e.key).map StagedEntry.bytes).getD 0) :
    Moves g s (t.stageEntry l sq k e b) := (h.snoc (.stage t l e hb hn hr)).answer _ _ _ _ _ hk

theorem requestPut (h : Moves g s t) (k : Key) (c : Byte) (x : Option Word) (body : List Byte) (hl : body.length ≤ 224) :
    Moves g s (Machine.requestPut l sq k c x body t) := by
  unfold Machine.requestPut
  split
  · exact h.refuse _ _ _ _ hk
  · split
    · exact h.refuse _ _ _ _ hk
    · rename_i cls _
      split
      · exact h.refuse _ _ _ _ hk
      · rename_i hc
        split
        · exact h.refuse _ _ _ _ hk
        · dsimp only
          split
          · exact h.refuse _ _ _ _ hk
          · rename_i hroom
            obtain ⟨h1, h2⟩ := room_of_not_refused hroom
            refine h.stageEntry hk _ _ _ _ ?_ (fun hn => h1 (by rw [hn]; rfl)) h2
            unfold bodyInLimits
            dsimp only
            split
            · rename_i he
              have := not_and.1 hc he
              simpa using this
            · exact decide_eq_true (by omega)

theorem requestAppend (h : Moves g s t) (k : Key) (bs : List Byte) : Moves g s (Machine.requestAppend l sq k bs t) := by
  unfold Machine.requestAppend
  split
  · exact h.refuse _ _ _ _ hk
  · split
    · rename_i cls x body n hop
      split
      · exact h.refuse _ _ _ _ hk
      · rename_i hc
        split
        · exact h.refuse _ _ _ _ hk
        · dsimp only
          split
          · exact h.answer _ _ _ _ _ hk
          · rename_i hroom
            obtain ⟨-, h2⟩ := room_of_not_refused hroom
            obtain ⟨e, he, hop⟩ := Option.map_eq_some_iff.1 hop
            have hkey : e.key = k := by simpa using List.find?_some he
            have he' : findStaged (t.row l).staging k = some { key := k, op := .put cls x body n } := by
              rw [he, ← hop, ← hkey]
            have hlen : (bs.take (min bs.length (Config.maxBody - body.length))).length ≤ 496 - body.length := by
              rw [List.length_take, Config.maxBody]; omega
            refine (h.snoc (.append t l k cls x body _ n _ he' hc hlen ?_)).answer _ _ _ _ _ hk
            rw [List.length_take]; omega
    all_goals exact h.refuse _ _ _ _ hk

theorem requestAdd (h : Moves g s t) (k : Key) (d : Word) : Moves g s (Machine.requestAdd l sq k d t) := by
  unfold Machine.requestAdd
  split
  · exact h.refuse _ _ _ _ hk
  · split
    · rename_i hop
      have hn : findStaged (t.row l).staging k = none := by simpa using hop
      unfold addNew
      split
      · exact h.refuse _ _ _ _ hk
      · split
        · exact h.refuse _ _ _ _ hk
        · rename_i hroom
          obtain ⟨h1, -⟩ := room_of_not_refused hroom
          exact h.stageEntry hk _ _ _ _ rfl (fun _ => h1 rfl) (Nat.zero_le _)
    · rename_i old hop
      obtain ⟨e, he, -⟩ := Option.map_eq_some_iff.1 hop
      unfold addToAdd
      split
      · exact h.refuse _ _ _ _ hk
      · split
        · exact h.refuse _ _ _ _ hk
        · exact h.stageEntry hk _ _ _ _ rfl (fun hn => by rw [he] at hn; cases hn) (Nat.zero_le _)
    · rename_i c x body n hop
      refine .ite (fun hc => ?_) fun _ => h.refuse _ _ _ _ hk
      obtain ⟨e, he, hop⟩ := Option.map_eq_some_iff.1 hop
      have hkey : e.key = k := by simpa using List.find?_some he
      have he' : findStaged (t.row l).staging k = some { key := k, op := .put .counter x body n } := by
        rw [he, ← hc, ← hop, ← hkey]
      unfold addToPut
      split
      · exact h.refuse _ _ _ _ hk
      · exact (h.snoc (.sum t l k x body n 0 _ he')).answer _ _ _ _ _ hk
    · exact h.refuse _ _ _ _ hk

theorem requestDelete (h : Moves g s t) (k : Key) (x : Option Word) : Moves g s (Machine.requestDelete l sq k x t) := by
  unfold Machine.requestDelete
  split
  · exact h.refuse _ _ _ _ hk
  · split
    · exact h.refuse _ _ _ _ hk
    · split
      · exact h.refuse _ _ _ _ hk
      · rename_i hroom
        obtain ⟨h1, -⟩ := room_of_not_refused hroom
        exact h.stageEntry hk _ _ _ _ rfl (fun hn => h1 (by rw [hn]; rfl)) (Nat.zero_le _)

theorem requestDrop (h : Moves g s t) (k : Key) : Moves g s (Machine.requestDrop l sq k t) := by
  unfold Machine.requestDrop
  split
  · exact h.refuse _ _ _ _ hk
  · split
    · exact (h.unstage l k).answer _ _ _ _ _ hk
    · exact h.refuse _ _ _ _ hk

theorem requestStaged (h : Moves g s t) : Moves g s (Machine.requestStaged l sq t) := by
  unfold Machine.requestStaged
  split
  · exact h.refuse _ _ _ _ hk
  · exact h.answer _ _ _ _ _ hk

theorem requestAbort (h : Moves g s t) : Moves g s (Machine.requestAbort l sq t) := by
  unfold Machine.requestAbort
  split
  · exact h.refuse _ _ _ _ hk
  · exact (h.clearStaging l).answer _ _ _ _ _ hk

/-! #### COMMIT, RECLAIM, FORMAT, RESTART -/

theorem requestCommit (h : Moves g s t) : Moves g s (Machine.requestCommit l sq t) := by
  unfold Machine.requestCommit
  refine .ite (fun _ => h.answer _ _ _ _ _ hk) fun _ => .ite (fun _ => h.answer _ _ _ _ _ hk) fun _ =>
    .ite (fun _ => h.answer _ _ _ _ _ hk) fun _ => .ite (fun _ => h.answer _ _ _ _ _ hk) fun _ =>
    .ite (fun _ => h.answer _ _ _ _ _ hk) fun _ => .ite (fun _ => h.answer _ _ _ _ _ hk) fun _ =>
    .ite (fun _ => h.answer _ _ _ _ _ hk) fun hj => .ite (fun _ => h.answer _ _ _ _ _ hk) fun _ => ?_
  split
  · exact h.answer _ _ _ _ _ hk
  · have hj' : t.jobOf l = none := by simpa using hj
    have h1 := h.snoc (.queueAdd t (.accepted l ((t.row l).number.getD 0)) (State.jobOf_none.1 hj'))
    exact ((h1.setRowKeeping l { t.row l with state := .committing } rfl rfl).hold l _ _ hk).settle

theorem requestReclaim (h : Moves g s t) : Moves g s (Machine.requestReclaim l sq t) := by
  unfold Machine.requestReclaim
  split
  · exact h.refuse _ _ _ _ hk
  · refine .ite (fun _ => h.refuse _ _ _ _ hk) fun _ => .ite (fun _ => h.answer _ _ _ _ _ hk) fun _ => ?_
    have : ((t.force true).link l).repliesTaken < 4 := by unfold State.force; dsimp only; split <;> exact hk
    exact ((h.force true).answer _ _ _ _ _ this).settle

theorem requestFormat (h : Moves g s t) : Moves g s (Machine.requestFormat l sq t) := by
  unfold Machine.requestFormat
  split
  · exact h.refuse _ _ _ _ hk
  · exact .ite (fun _ => h.refuse _ _ _ _ hk) fun _ => .ite (fun _ => h.refuse _ _ _ _ hk) fun _ =>
      .ite (fun _ => h.refuse _ _ _ _ hk) fun _ => (((h.hold l _ _ hk).setMode _).setFormat _).settle

theorem requestRestart (h : Moves g s t) : Moves g s (Machine.requestRestart l sq t) := by
  unfold Machine.requestRestart
  split
  · exact h.refuse _ _ _ _ hk
  · refine .ite (fun _ => h.refuse _ _ _ _ hk) fun _ => ?_
    unfold State.oweRestart
    split
    · exact (h.setMount _).answer _ _ _ _ _ hk
    · exact h.answer _ _ _ _ _ hk

end owners

/-! ### The link's own steps (R175) -/

theorem earlySteps (h : Moves g s t) (sq : Byte) {rest : State → State}
    (hr : (t.link l).repliesTaken < 4 → Moves g s (rest t)) : Moves g s (Machine.earlySteps l sq rest t) := by
  unfold Machine.earlySteps
  refine .ite (fun _ => h.raiseOverrun l) fun hk => .ite (fun _ => h) fun _ => ?_
  have hk' : (t.link l).repliesTaken < 4 := Nat.not_le.1 hk
  split
  · exact .ite (fun _ => h.placeFrame l _ hk') fun _ => hr hk'
  · exact hr hk'

theorem lateSteps (h : Moves g s t) (hk : (t.link l).repliesTaken < 4) (sq : Byte) (k : ReqKind) (fits : Bool)
    {owner : State → State}
    (ho : fits = true → ∀ u, (u.link l).repliesTaken < 4 → Moves g s u → Moves g s (owner u)) :
    Moves g s (Machine.lateSteps l sq k fits owner t) := by
  unfold Machine.lateSteps
  refine .ite (fun _ => h.refuse _ _ _ _ hk) fun hf => .ite (fun _ => h.refuse _ _ _ _ hk) fun _ => ?_
  refine ho (by simpa using hf) _ ?_ (h.restartLease l)
  unfold State.restartLease
  dsimp only
  split <;> exact hk

theorem takeRequest (h : Moves g s t) (sq : Byte) (k : ReqKind) (fits : Bool) {owner : State → State}
    (ho : fits = true → ∀ u, (u.link l).repliesTaken < 4 → Moves g s u → Moves g s (owner u)) :
    Moves g s (Machine.takeRequest l sq k fits owner t) :=
  .ite (fun _ => (h.huntLink l).earlySteps sq fun hk => (h.huntLink l).lateSteps hk sq k fits ho) fun _ => h

/-- The body of a request that a frame spells fits its layout. -/
theorem parseBody_fits {k : ReqKind} {body : List Byte} {r : Request} (h : parseBody k body = some r) : requestFits r = true := by
  cases k <;> simp only [parseBody] at h
  case put =>
    unfold parsePut at h
    split at h
    · split at h
      · cases h
      · split at h
        · split at h
          · split at h
            · rename_i hb; cases h; exact decide_eq_true hb
            · cases h
          · cases h
        · split at h
          · rename_i hb; cases h; exact decide_eq_true hb
          · cases h
    · cases h
  case append =>
    unfold parseAppend at h
    split at h
    · split at h
      · rename_i hb; cases h; exact decide_eq_true hb
      · cases h
    · cases h
  all_goals
    first
      | (unfold parseNone at h; split at h <;> cases h; rfl)
      | (unfold parseKey at h; split at h <;> cases h; rfl)
      | (unfold parseAck at h; split at h <;> cases h; rfl)
      | (unfold parseOpen at h; split at h <;> cases h; rfl)
      | (unfold parseRenew at h; split at h <;> cases h; rfl)
      | (unfold parseRead at h; split at h <;> cases h; rfl)
      | (unfold parseList at h; split at h <;> cases h; rfl)
      | (unfold parseAdd at h; split at h <;> cases h; rfl)
      | (unfold parseDelete at h; split at h <;> (try split at h) <;> cases h <;> rfl)

theorem ownerOf (h : Moves g s t) (hk : (t.link l).repliesTaken < 4) (sq : Byte) (r : Request) (hf : requestFits r = true) :
    Moves g s (Machine.ownerOf l sq r t) := by
  cases r with
  | status => exact h.requestStatus hk sq
  | notices => exact h.requestNotices hk sq
  | ack n => exact h.requestAck hk sq n
  | openSession p r => exact h.requestOpen hk sq p r
  | renew p r => exact h.requestRenew hk sq p r
  | close => exact h.requestClose hk sq
  | read k o m => exact h.requestRead hk sq k o m
  | list k n => exact h.requestList hk sq k n
  | put k c x b => exact h.requestPut hk sq k c x b (of_decide_eq_true hf)
  | append k b => exact h.requestAppend hk sq k b
  | add k d => exact h.requestAdd hk sq k d
  | delete k x => exact h.requestDelete hk sq k x
  | drop k => exact h.requestDrop hk sq k
  | staged => exact h.requestStaged hk sq
  | abort => exact h.requestAbort hk sq
  | commit => exact h.requestCommit hk sq
  | watch k => exact h.requestWatch hk sq k
  | unwatch k => exact h.requestUnwatch hk sq k
  | reclaim => exact h.requestReclaim hk sq
  | format => exact h.requestFormat hk sq
  | restart => exact h.requestRestart hk sq

theorem frameSteps (h : Moves g s t) (hk : (t.link l).repliesTaken < 4) (sq k : Byte) (body : List Byte) :
    Moves g s (Machine.frameSteps l sq k body t) := by
  unfold Machine.frameSteps
  split
  · exact h.placeFrame _ _ hk
  · split
    · exact h.refuse _ _ _ _ hk
    · rename_i hp
      exact h.lateSteps hk _ _ _ fun _ u hu hm => hm.ownerOf hu _ _ (parseBody_fits hp)

theorem frameEnds (h : Moves g s t) (sq k : Byte) (body : List Byte) (c : Half) : Moves g s (Machine.frameEnds l sq k body c t) :=
  .ite (fun _ => (h.huntLink l).earlySteps sq fun hk => (h.huntLink l).frameSteps hk sq k body) fun _ => (h.huntLink l).raiseCheck l

theorem frameArrives (h : Moves g s t) (sq k : Byte) (body : List Byte) (c : Half) :
    Moves g s (Machine.frameArrives l sq k body c t) :=
  .ite (fun _ => h) fun _ => .ite (fun _ => h.huntLink l) fun _ => h.frameEnds sq k body c

/-! ### Bytes, lines, replies, leases -/

theorem frameTo (h : Moves g s t) (f : FramerState) (x : FrameInProgress) : Moves g s (t.frameTo l f x) := h.setLinkKeeping l _ rfl rfl rfl

theorem takeByte (h : Moves g s t) (b : Byte) : Moves g s (Machine.takeByte l b t) := by
  unfold Machine.takeByte
  dsimp only
  split
  · exact .ite (fun _ => h.frameTo _ _) fun _ => h
  · exact .ite (fun _ => h.frameTo _ _) fun _ => h.huntLink l
  · exact h.frameTo _ _
  · exact h.frameTo _ _
  · exact h.frameTo _ _
  · split
    · exact h.frameTo _ _
    · exact h.frameEnds _ _ _ _

theorem byteArrives (h : Moves g s t) (b : Byte) (e : Bool) : Moves g s (Machine.byteArrives l b e t) := by
  have hg : Moves g s (Machine.resetGap l t) := h.setLinkKeeping l _ rfl rfl rfl
  exact .ite (fun _ => h) fun _ => .ite (fun _ => .ite (fun _ => h) fun _ => (h.huntLink l).raiseCheck l) fun _ => hg.takeByte b

theorem gapEnds (h : Moves g s t) : Moves g s (Machine.gapEnds l t) := .ite (fun _ => (h.huntLink l).raiseGap l) fun _ => h

theorem setRxSpace (h : Moves g s t) (b : Bool) : Moves g s (t.setRxSpace l b) := h.setPins _

theorem lineToSpace (h : Moves g s t) : Moves g s (Machine.lineToSpace l t) := by
  unfold Machine.lineToSpace
  exact .ite (fun _ => (h.setRxSpace true).setLinkKeeping l _ rfl rfl rfl) fun _ => h.setRxSpace true

theorem lineToMark (h : Moves g s t) : Moves g s (Machine.lineToMark l t) := by
  unfold Machine.lineToMark
  exact .ite (fun _ => (h.setRxSpace false).setLinkKeeping l _ rfl rfl rfl) fun _ => h.setRxSpace false

theorem breakRestart (h : Moves g s t) : Moves g s (t.breakRestart l) := by
  unfold State.breakRestart
  split
  · exact h.setMount _
  · exact h

theorem breakSession (h : Moves g s t) : Moves g s (t.breakSession l) := by
  unfold State.breakSession
  refine .ite (fun _ => h) fun _ => .ite (fun _ => ?_) fun _ => h.endRow l
  split
  · exact .ite (fun _ => h.setRowKeeping l _ rfl rfl) fun _ => h.cancelJob l
  · exact h.endRow l

theorem lineBreaks (h : Moves g s t) : Moves g s (Machine.lineBreaks l t) := by
  refine .ite (fun _ => ?_) fun _ => h
  have h1 : Moves g s (((t.setRxSpace l true).breakRestart l).resetLink l) :=
    (h.setRxSpace true).breakRestart.setLink l _ (.inl (by decide)) (.inl (.inl rfl))
  exact (h1.clearNotices l).breakSession.settle

theorem replyLeaves (h : Moves g s t) : Moves g s (Machine.replyLeaves l t) := by
  refine .ite (fun _ => ?_) fun _ => h
  have h1 : Moves g s (t.setLink l ((t.link l).withReplies (t.link l).replies.tail)) := by
    refine h.setLink l _ (.inr ?_) (.inl (.inr rfl))
    exact Nat.add_le_add_right (by rw [LinkState.withReplies, List.length_tail]; omega) _
  cases l
  · exact h1
  · exact h1.setMount _

theorem leaseExpires (h : Moves g s t) : Moves g s (Machine.leaseExpires l t) :=
  .ite (fun _ => (h.endRow l).sessionEndedNotice _ _ _) fun _ => h

/-! ### Supply, RESET, starts, PFAIL -/

theorem start (h : Moves g s t) (c : StartCause) : Moves g s (t.start c) := by
  have h' := h.snoc (.started t c)
  exact .ite (fun _ => h') fun _ => (h'.scan rfl).settle

theorem cutShort (h : Moves g s t) : Moves g s t.cutShort := h.cutOff.emptyNotices.holdLines

theorem supplyFalls (h : Moves g s t) : Moves g s (Machine.supplyFalls t) := h.cutShort.setPins _

theorem supplyReturns (h : Moves g s t) : Moves g s (Machine.supplyReturns t) :=
  .ite (fun _ => h.supplyFalls.setPins _) fun _ => Moves.start (h.supplyFalls.setPins _) _

theorem resetReleases (h : Moves g s t) : Moves g s (Machine.resetReleases t) :=
  .ite (fun _ => .ite (fun _ => Moves.start (h.setPins _) _) fun _ => h.setPins _) fun _ => h

theorem haltRow (h : Moves g s t) : Moves g s (t.haltRow l) := by
  unfold State.haltRow
  have h' : Moves g s (match (t.link l).held.map Held.kind with
      | some .format => t.placeHeld l .halted []
      | some .commit => t
      | none => t) := by
    split
    · exact h.placeHeld _ _ _
    · exact h
    · exact h
  exact .ite (fun _ => h'.endRow l) fun _ => h'

theorem haltMount (h : Moves g s t) : Moves g s t.haltMount := by
  unfold State.haltMount
  split
  · exact .ite (fun _ => h) fun _ => h.scanStops
  · exact .ite (fun _ => h) fun _ => h.formatStops
  · exact h.setFormat _

theorem haltAll (h : Moves g s t) : Moves g s (Machine.haltAll t) :=
  (Moves.haltReclaimer (Moves.haltJobs (Moves.haltRow (Moves.haltRow ((h.snoc (.supply t .halted)).setMount _))))).haltMount

theorem pfailAsserts (h : Moves g s t) : Moves g s (Machine.pfailAsserts t) :=
  .ite (fun _ => Moves.haltAll (h.setPins _)) fun _ => h.setPins _

/-! ### The millisecond -/

theorem tickLease (h : Moves g s t) (l : Link) : Moves g s (t.tickLease l) := .ite (fun _ => h.setRowKeeping l _ rfl rfl) fun _ => h

theorem tickLink (h : Moves g s t) (l : Link) : Moves g s (t.tickLink l) := h.setLinkKeeping l _ rfl rfl rfl

theorem tickOp (h : Moves g s t) : Moves g s t.tickOp := .ite (fun _ => h.snoc (.opTimer t _)) fun _ => h

theorem tick (h : Moves g s t) : Moves g s (Machine.tick t) := by
  refine .ite (fun _ => h) fun _ => .ite (fun hp => ?_) fun _ => ((((h.tickLease _).tickLease _).tickLink _).tickLink _).tickOp
  refine (h.scan ?_).settle
  simp only [State.scanPending, Bool.and_eq_true] at hp
  simpa using hp.2

end Sys2Proof.Laws.Moves
end

