-- ==== Sys2Proof/Laws/Step.lean ====
section
/-!
SUPPORT. The inversion lemma of the machine: whatever a command or a step answers is a run of moves from where it began.
-/

namespace Sys2Proof.Laws

open Sys2Proof.Machine Sys2Proof.Safety

variable {g : Prop} {s t : State}

/-- Everything a command can do. With `g` true its moves are guarded by law 3 throughout, which `s` must then obey. -/
theorem exec_moves {c : Instr} (hl : g → ActiveLaw s) (h : exec c s = .next t) : Moves g s t := by
  have r : Moves g s s := .refl
  cases c with
  | status l sq => cases h; exact r.takeRequest sq _ _ fun _ _ hk hm => hm.requestStatus hk sq
  | notices l sq => cases h; exact r.takeRequest sq _ _ fun _ _ hk hm => hm.requestNotices hk sq
  | ack l sq n => cases h; exact r.takeRequest sq _ _ fun _ _ hk hm => hm.requestAck hk sq n
  | openSession l sq p q => cases h; exact r.takeRequest sq _ _ fun _ _ hk hm => hm.requestOpen hk sq p q
  | renew l sq p q => cases h; exact r.takeRequest sq _ _ fun _ _ hk hm => hm.requestRenew hk sq p q
  | close l sq => cases h; exact r.takeRequest sq _ _ fun _ _ hk hm => hm.requestClose hk sq
  | read l sq k o m => cases h; exact r.takeRequest sq _ _ fun _ _ hk hm => hm.requestRead hk sq k o m
  | list l sq k n => cases h; exact r.takeRequest sq _ _ fun _ _ hk hm => hm.requestList hk sq k n
  | put l sq k c x b => cases h; exact r.takeRequest sq _ _ fun hf _ hk hm => hm.requestPut hk sq k c x b (of_decide_eq_true hf)
  | append l sq k b => cases h; exact r.takeRequest sq _ _ fun _ _ hk hm => hm.requestAppend hk sq k b
  | add l sq k d => cases h; exact r.takeRequest sq _ _ fun _ _ hk hm => hm.requestAdd hk sq k d
  | delete l sq k x => cases h; exact r.takeRequest sq _ _ fun _ _ hk hm => hm.requestDelete hk sq k x
  | drop l sq k => cases h; exact r.takeRequest sq _ _ fun _ _ hk hm => hm.requestDrop hk sq k
  | staged l sq => cases h; exact r.takeRequest sq _ _ fun _ _ hk hm => hm.requestStaged hk sq
  | abort l sq => cases h; exact r.takeRequest sq _ _ fun _ _ hk hm => hm.requestAbort hk sq
  | commit l sq => cases h; exact r.takeRequest sq _ _ fun _ _ hk hm => hm.requestCommit hk sq
  | watch l sq k => cases h; exact r.takeRequest sq _ _ fun _ _ hk hm => hm.requestWatch hk sq k
  | unwatch l sq k => cases h; exact r.takeRequest sq _ _ fun _ _ hk hm => hm.requestUnwatch hk sq k
  | reclaim l sq => cases h; exact r.takeRequest sq _ _ fun _ _ hk hm => hm.requestReclaim hk sq
  | format l sq => cases h; exact r.takeRequest sq _ _ fun _ _ hk hm => hm.requestFormat hk sq
  | restart l sq => cases h; exact r.takeRequest sq _ _ fun _ _ hk hm => hm.requestRestart hk sq
  | frameComplete l sq k b c => cases h; exact r.frameArrives sq k b c
  | gapTimeout l => cases h; exact r.gapEnds
  | lineBreak l => cases h; exact r.lineBreaks
  | replySent l => cases h; exact r.replyLeaves
  | leaseExpiry l => cases h; exact r.leaseExpires
  | programComplete o ok =>
    simp only [exec, execProgramComplete] at h
    split at h <;> cases h
    · exact (r.imageEnds _ _ _ _).settle
    · exact r
  | activationRecordComplete o =>
    simp only [exec, execActivationRecordComplete] at h
    split at h <;> cases h
    · rename_i ho; exact (r.activationEnds o ho hl).settle
    · exact r
  | operationDeadline ok =>
    simp only [exec, execOperationDeadline] at h
    split at h <;> cases h
    · exact r.opEnds _ _ hl
    · exact r
  | eraseComplete o =>
    simp only [exec, execEraseComplete] at h
    split at h <;> cases h
    · exact (r.eraseEnds _ _).settle
    · exact r
  | eraseRecordComplete o =>
    simp only [exec, execEraseRecordComplete] at h
    split at h <;> cases h
    · exact (r.eraseRecordEnds _ _).settle
    · exact r
  | powerOn => cases h; exact r.supplyReturns
  | supplyLoss => cases h; exact r.supplyFalls
  | resetAssert => cases h; exact r.cutShort.setPins _
  | resetRelease => cases h; exact r.resetReleases
  | pfailAssert => cases h; exact r.pfailAsserts
  | pfailDeassert => cases h; exact r.setPins _
  | supplyReturnStart => cases h; exact .ite (fun _ => r.start _) fun _ => r
  | restartRequestStart => cases h; exact .ite (fun _ => r.start _) fun _ => r
  | byteReceived l b e => cases h; exact r.byteArrives b e
  | receiveLineToSpace l => cases h; exact r.lineToSpace
  | receiveLineToMark l => cases h; exact r.lineToMark

/-- Everything a step can do: it takes the command at the front out of the queue, and makes a run of moves. -/
theorem step_moves (hl : g → ActiveLaw s) (h : step s = .next t) : Moves g { s with pending := s.pending.tail } t := by
  unfold step at h
  split at h
  · rename_i hp
    cases h
    have : ({ s with pending := s.pending.tail } : State) = s := by
      cases s; simp only at hp; subst hp; rfl
    rw [this]
    exact Moves.tick .refl
  · rename_i c rest hp
    have : ({ s with pending := s.pending.tail } : State) = { s with pending := rest } := by rw [hp, List.tail_cons]
    rw [this]
    exact exec_moves (fun hg => hl hg) h

/-- What does not look at the queue and every move keeps, every step keeps. -/
theorem step_keeps {P : State → Prop} (hq : ∀ s q, P s → P { s with pending := q }) (hm : ∀ a b, Move False a b → P a → P b)
    (hs : P s) (h : step s = .next t) : P t :=
  Moves.keeps hm (step_moves (g := False) False.elim h) (hq _ _ hs)

end Sys2Proof.Laws
end

