-- ==== Sys2Proof/WellFormed.lean ====
section
/-!
DEFINITION. Which commands can be put on a link at all: the sizes of R181 and R182. A command that is not well formed still has a
meaning (the link answers BAD-FORMAT, or takes the length byte as a false start).
-/

namespace Sys2Proof

/-- R182: a PUT carries 0 to 224 body bytes, an APPEND 0 to 224 bytes; R181: a frame body is 0 to 240 bytes. -/
def Instr.wellFormed : Instr → Bool
  | .put _ _ _ _ _ body => decide (body.length ≤ Config.maxPart)
  | .append _ _ _ bytes => decide (bytes.length ≤ Config.maxPart)
  | .frameComplete _ _ _ body _ => decide (body.length ≤ Config.maxFrameBody)
  | _ => true

end Sys2Proof
end

