-- ==== Sys2Proof/Tests/Slice0.lean ====
section
/-!
SUPPORT. Tests: ill-formed commands, the worked examples of the spec (each cites the section its expected values are read from), and a
witness for the hypotheses of every statement that has some.
-/

namespace Sys2Proof.Tests

-- One theorem at a time: this many evaluations at once need more threads than a memory limit allows.
set_option Elab.async false

open Sys2Proof.Machine Sys2Proof.Safety Sys2Proof.Laws

/-! ### Ill-formed commands (R181, R182) -/

theorem test_wellFormed_refuses_long_put :
    Instr.wellFormed (.put .p 1 1 0 none (List.replicate 225 0)) = false := by decide +kernel

theorem test_wellFormed_refuses_long_append :
    Instr.wellFormed (.append .p 1 1 (List.replicate 225 0)) = false := by decide +kernel

theorem test_wellFormed_refuses_long_frame :
    Instr.wellFormed (.frameComplete .p 1 1 (List.replicate 241 0) 0) = false := by decide +kernel

/-! ### Small states -/

def sectorRow (st : SectorState) (count : Nat) (seq : Option Word) (next waste : Nat) : SectorRow :=
  { state := st, eraseCount := count, sequence := seq, nextFree := next, waste := waste, suspect := false, retirePending := false }

/-- READY at rest with the given rows; the others are RETIRED. -/
def storeOf (rows : List (Nat × SectorRow)) : State :=
  { State.reset with
    array := { State.reset.array with
      table := Vector.ofFn fun i => (rows.lookup i.val).getD (sectorRow .retired 1 none 2 0)
      epoch := some 3
      recorded := true
      nextSeq := 8
      tenancy := .none }
    mount := { State.reset.mount with mode := .ready, activity := .none, phase := .decide } }

/-- READY at rest: sector 5 ACTIVE with nothing in it, seven sectors ERASED. -/
def ready : State :=
  storeOf [(5, sectorRow .active 1 (some 7) 2 0), (9, sectorRow .erased 120 none 2 0), (12, sectorRow .erased 118 none 2 0),
    (30, sectorRow .erased 118 none 2 0), (31, sectorRow .erased 130 none 2 0), (32, sectorRow .erased 130 none 2 0),
    (33, sectorRow .erased 130 none 2 0), (34, sectorRow .erased 130 none 2 0)]

def session (p : Privilege) (staging : List StagedEntry) : SessionRow :=
  { state := .opened, orphaned := false, number := some 1, privilege := some p, leasePeriod := some 10, leaseRemaining := some 5000,
    staging := staging, watch := [] }

/-- The state after a command. -/
def after (c : Instr) (s : State) : State :=
  match exec c s with
  | .next t => t
  | .fault _ => s
  | .refused _ => s

/-- Kind and body of the reply placed last. -/
def lastReply (s : State) (l : Link) : Option (Byte × List Byte) :=
  (s.link l).cache.map fun f => (f.kind, f.body)

def putOf (key : Key) (cls : RecClass) (n : Nat) : StagedEntry :=
  { key := key, op := .put cls none (List.replicate n 0xAA) 0 }

/-! ### Worked examples of the spec -/

/-- The published check value of this CRC over the digits 1 to 9. -/
theorem test_crc_of_digits : crc16 [0x31, 0x32, 0x33, 0x34, 0x35, 0x36, 0x37, 0x38, 0x39] = 0x29B1 := by decide +kernel

/-- 3.9.1: OPEN WRITE, 10 s, as the first session. -/
theorem test_open_first_session :
    lastReply (after (.openSession .p 1 2 10) ready) .p = some (0x90, [0x00, 0x00, 0x01, 0x02, 0x0A]) := by decide +kernel

/-- 4.9.1, step 3: 48 bytes of 100 accepted, 52 clipped. -/
theorem test_append_clips :
    let s := ready.setRow .p (session .write [putOf 0x1000 .plain 448])
    let t := after (.append .p 1 0x1000 (List.replicate 100 0xBB)) s
    lastReply t .p = some (0xB1, [0x01, 48, 0x01, 0xF0]) ∧ t.poolFreeBytes = 1536 - 496 ∧
      (t.row .p).staging.map StagedEntry.op =
        [.put .plain none (List.replicate 448 0xAA ++ List.replicate 48 0xBB) 52] := by decide +kernel

/-- 3.9.2: RENEW to READ discards both entries. -/
theorem test_renew_demotion_discards :
    let s := ready.setRow .p (session .write [putOf 0x0100 .plain 40, { key := 0x0200, op := .add 1 }])
    let t := after (.renew .p 1 1 10) s
    lastReply t .p = some (0x91, [0x00, 0x00, 0x01, 0x01, 0x0A, 2]) ∧ t.poolFreeSlots = 24 ∧ t.poolFreeBytes = 1536 := by
  decide +kernel

/-- 3.9.3: the lease ends with one DELETE staged. -/
theorem test_lease_expiry_notice :
    let t := after (.leaseExpiry .p) (ready.setRow .p (session .write [{ key := 0x0100, op := .delete none }]))
    (t.row .p).state = .none ∧
      t.noticeQueue .p = { entries := [{ kind := .sessionEnded, subject := 1, detail := 1, repeats := 1, seen := false }], attn := true } := by
  decide +kernel

/-- 3.9.3: STAGED after the session has ended. -/
theorem test_staged_without_session :
    lastReply (after (.staged .p 1) ready) .p = some (0xB5, [0x30, 0]) := by decide +kernel

/-- R50: the number held by the other row is passed over. -/
theorem test_open_passes_held_number :
    let t := after (.openSession .s 1 3 30) (ready.setRow .p (session .write []))
    lastReply t .s = some (0x90, [0x00, 0x00, 0x02, 0x03, 0x1E]) ∧ t.sessionCounter = 3 := by decide +kernel

/-- R55: CLOSE reports number and entries discarded. -/
theorem test_close_reports :
    lastReply (after (.close .p 1) (ready.setRow .p (session .write [putOf 0x0100 .plain 40]))) .p = some (0x92, [0x00, 0x00, 0x01, 1]) := by
  decide +kernel

/-- R59: a ninth key finds the list full. -/
theorem test_watch_full :
    let s := ready.setRow .p { session .read [] with watch := [1, 2, 3, 4, 5, 6, 7, 8] }
    lastReply (after (.watch .p 1 9) s) .p = some (0xD0, [0x53, 8]) ∧
      ((after (.unwatch .p 1 3) s).row .p).watch = [1, 2, 4, 5, 6, 7, 8] := by decide +kernel

/-- 4.9.1, step 9: 200 bytes against 96 free. -/
theorem test_put_no_room :
    let s := (ready.setRow .p (session .write [putOf 0x1000 .plain 496, putOf 0x1100 .plain 448])).setRow .s
      (session .service [putOf 0x2000 .service 496])
    lastReply (after (.put .s 1 0x2100 0 none (List.replicate 200 0)) s) .s = some (0xB0, [0x50, 0, 0, 0, 0, 0]) ∧
      lastReply (after (.put .s 1 0x2100 0 none (List.replicate 96 0)) s) .s = some (0xB0, [0x00, 0, 20, 0, 0, 2]) := by
  decide +kernel

/-- 4.10, steps 1 to 3: deltas sum without saturation, and not beyond 32 bits. -/
theorem test_add_sums_deltas :
    let s := ready.setRow .p (session .write [{ key := 0x0200, op := .add 0xFFFFFFE0 }])
    let t := after (.add .p 1 0x0200 0x7FFFFFFF) s
    (t.row .p).staging = [{ key := 0x0200, op := .add 0x7FFFFFDF }] ∧
      lastReply (after (.add .p 2 0x0200 0x40) t) .p = some (0xB2, [0x23, 0, 0, 0, 0, 0]) := by decide +kernel

/-- 4.10, step 5: FFFFFFF0H and 20H saturate. -/
theorem test_add_saturates_staged_put :
    let s := ready.setRow .p (session .write [{ key := 0x0200, op := .put .counter none [0xFF, 0xFF, 0xFF, 0xF0] 0 }])
    let t := after (.add .p 1 0x0200 0x20) s
    (t.row .p).staging = [{ key := 0x0200, op := .put .counter none [0xFF, 0xFF, 0xFF, 0xFF] 0 }] ∧
      lastReply t .p = some (0xB2, [0x00, 1, 23, 0x05, 0xFC, 1]) := by decide +kernel

/-- 4.9.3, step 19: COMMIT with a clipped entry. -/
theorem test_commit_truncated :
    let s := ready.setRow .p (session .write [{ key := 0x1000, op := .put .plain none [1] 52 }])
    lastReply (after (.commit .p 1) s) .p = some (0xC0, [0x45, 0x10, 0x00, 0, 0, 0, 0, 0, 0]) := by decide +kernel

/-- 4.9.3, step 20: DROP closes the list up. -/
theorem test_drop_closes_up :
    let s := ready.setRow .p (session .write [putOf 0x1000 .plain 4, putOf 0x1100 .plain 4, { key := 0x1200, op := .add 5 }])
    ((after (.drop .p 1 0x1000) s).row .p).staging.map StagedEntry.key = [0x1100, 0x1200] ∧
      lastReply (after (.abort .p 1) s) .p = some (0xB6, [0x00, 3]) := by decide +kernel

/-- 4.10, step 9: DELETE replaces the entry in its place. -/
theorem test_delete_replaces_in_place :
    let s := ready.setRow .p (session .write [putOf 0x0200 .counter 4, putOf 0x0300 .plain 4])
    ((after (.delete .p 1 0x0200 (some 2)) s).row .p).staging =
      [{ key := 0x0200, op := .delete (some 2) }, putOf 0x0300 .plain 4] := by decide +kernel

/-! The directory of 1.11 and its array: 0100H of 0 bytes, 0200H a COUNTER of 15H, 0300H a ONCE record of 16 bytes. -/

def bodyOf0300 : List Byte := (List.range 16).map (BitVec.ofNat 8)

def liveAt (key : Key) (cls : RecClass) (n : Nat) (g : Word) (unit : Nat) : DirEntry :=
  { key := key, body := .live cls n, generation := g, location := { sector := 5, unit := unit }, stale := 0, dropPending := false }

def stored : State :=
  let m := Memory.writeBytes [] (unitAddress 5 8) (Image.record .once 0x0300 bodyOf0300 1).bytes
  let m := Memory.writeBytes m (unitAddress 5 19) (Image.record .counter 0x0200 [0, 0, 0, 0x15] 2).bytes
  let m := Memory.writeBytes m (unitAddress 5 24) (Image.record .plain 0x0100 [] 4).bytes
  ((ready.setMem m).setSec 5 { ready.sec 5 with nextFree := 26, waste := 15 }).setDirectory
    [liveAt 0x0100 .plain 0 4 24, liveAt 0x0200 .counter 4 2 19, liveAt 0x0300 .once 16 1 8]

/-- 1.11: READ 0300H, offset 8, maximum 4; READ 0200H, offset 5. -/
theorem test_read_slice :
    lastReply (after (.read .s 1 0x0300 8 4) stored) .s = some (0xA0, [0x00, 0, 0, 0, 0, 1, 0, 16, 8, 9, 10, 11]) ∧
      lastReply (after (.read .s 1 0x0200 5 224) stored) .s = some (0xA0, [0x23, 0, 0, 0, 0, 0, 0, 0]) := by decide +kernel

/-- 1.11: ADD -20H staged, saturated at 0 in the staged view. -/
theorem test_read_staged_add :
    let s := stored.setRow .p (session .write [{ key := 0x0200, op := .add 0xFFFFFFE0 }])
    lastReply (after (.read .p 1 0x0200 0 224) s) .p = some (0xA0, [0x00, 1, 0, 0, 0, 2, 0, 4, 0, 0, 0, 0]) := by decide +kernel

/-- 1.11: LIST from 0001H, count 2. -/
theorem test_list_page :
    lastReply (after (.list .p 1 1 2) stored) .p =
      some (0xA1, [0x00, 2, 0x03, 0x00, 0x01, 0x00, 0, 0, 0, 0, 0, 0, 4, 0x02, 0x00, 3, 0, 4, 0, 0, 0, 2]) := by decide +kernel

/-- 10.4.1: places of the store mode, the pool figures and the session in STATUS. -/
theorem test_status_fields :
    let b := ((lastReply (after (.status .p 1) (stored.setRow .p (session .write []))) .p).map Prod.snd).getD []
    b.length = 39 ∧ b.take 12 = [0x00, 0x4F, 0x40, 0x01, 0x01, 0x01, 0, 1, 0, 1, 2, 10] ∧
      b.drop 13 = [0, 3, 0, 0, 7, 0, 40, 230, 0, 15, 0, 0, 0, 1, 0, 24, 0x06, 0x00, 0, 0, 0, 0, 0, 0, 0, 0] := by decide +kernel

/-! ### Notices: 8.6 -/

def kc (key : Half) (detail : Word) (repeats : Nat) (seen : Bool) : Notice :=
  { kind := .keyChanged, subject := key, detail := detail, repeats := repeats, seen := seen }

def wear17 : Notice := { kind := .wear, subject := 0x0011, detail := 0x01000000, repeats := 1, seen := true }

def fetched : List Notice :=
  [kc 0x0101 0x40 1 true, kc 0x0102 0x40 1 true, kc 0x0103 0x40 1 true, kc 0x0104 0x40 1 true, kc 0x0105 0x40 1 true, wear17]

def lostOf (detail : Word) (repeats : Nat) : Notice :=
  { kind := .lost, subject := 0, detail := detail, repeats := repeats, seen := false }

def overflowed : List Notice :=
  [kc 0x0101 0x41 2 false, kc 0x0102 0x40 1 true, kc 0x0103 0x40 1 true, kc 0x0104 0x40 1 true, kc 0x0105 0x40 1 true, wear17,
    kc 0x0106 0x41 1 false, lostOf 0x02000108 2]

/-- 8.6.2. -/
theorem test_notices_overflow :
    ([0x0101, 0x0106, 0x0107, 0x0108] : List Half).foldl (fun q k => takeNotice q .keyChanged k 0x41) fetched = overflowed := by
  decide +kernel

/-- 8.6.3, steps 4 and 7. -/
theorem test_ack_counts_unseen :
    let t := after (.ack .p 1 6) (ready.setNotices .p overflowed)
    lastReply t .p = some (0x83, [0x00, 6, 1, 2]) ∧
      lastReply (after (.ack .p 2 3) t) .p = some (0x83, [0x23, 0, 0, 2]) := by decide +kernel

/-- 8.6.1, step 3: NOTICES carries the entries and marks them seen. -/
theorem test_notices_mark_seen :
    let t := after (.notices .p 1) (ready.setNotices .p [kc 0x0101 0x40 1 false])
    lastReply t .p = some (0x82, [0x00, 1, 2, 0x01, 0x01, 0, 0, 0, 0x40, 1]) ∧
      (t.noticeQueue .p).entries = [kc 0x0101 0x40 1 true] := by decide +kernel

/-! ### The links: 9.13 -/

/-- 9.13, step 1: a false start byte and a length byte above 240. -/
theorem test_bytes_false_start :
    let t := after (.byteReceived .s 0xF8 false) (after (.byteReceived .s 0xC3 false) (after (.byteReceived .s 0x55 false) ready))
    (t.link .s).framer = .hunt ∧ (t.link .s).checkCount = 0 ∧ (t.link .s).replies = [] := by decide +kernel

/-- 9.13, step 2: a pause inside a frame. -/
theorem test_gap_counted :
    let t := after (.gapTimeout .s) (after (.byteReceived .s 0xC3 false) ready)
    (t.link .s).framer = .hunt ∧ (t.link .s).gapCount = 1 := by decide +kernel

/-- 9.13, step 5: a frame of kind 7EH is answered with kind FEH. -/
theorem test_frame_unknown_kind :
    lastReply (after (.frameComplete .s 0x22 0x7E [] (crc16 [0, 0x22, 0x7E])) ready) .s = some (0xFE, [0x20]) := by decide +kernel

/-- 9.13, step 6: a LIST frame of body length 5; and 10.5: a COMMIT with a body. -/
theorem test_frame_bad_format :
    lastReply (after (.frameComplete .s 0x23 0x21 [0, 1, 2, 3, 4] (crc16 [5, 0x23, 0x21, 0, 1, 2, 3, 4])) ready) .s =
        some (0xA1, [0x21, 0, 0, 0]) ∧
      lastReply (after (.frameComplete .p 0x2A 0x40 [7] (crc16 [1, 0x2A, 0x40, 7])) ready) .p =
        some (0xC0, [0x21, 0, 0, 0, 0, 0, 0, 0, 0]) := by decide +kernel

/-- 9.12, step 3: READ beside a held COMMIT. -/
theorem test_busy_beside_held :
    let s := ready.hold .p .commit 0x12
    lastReply (after (.read .p 0x14 0x0200 0 1) s) .p = some (0xA0, [0x10, 0, 0, 0, 0, 0, 0, 0]) ∧
      after (.commit .p 0x12) s = s := by decide +kernel

/-- R174: the line at space, a break, the line at mark again. -/
theorem test_line_states :
    let t := after (.lineBreak .p) (after (.receiveLineToSpace .p) ready)
    (t.link .p).line = .broken ∧ after (.status .p 1) t = t ∧ ((after (.receiveLineToMark .p) t).link .p).line = .mark := by
  decide +kernel

/-- R178, R153: the RESTART reply leaves the line, then the start is due. -/
theorem test_restart_after_reply :
    let t := after (.restart .s 1) (ready.setRow .s (session .service []))
    after .restartRequestStart t = t ∧ (after (.replySent .s) t).mount.restart = .replyGone ∧
      (after .restartRequestStart (after (.replySent .s) t)).mount.cause = .restartRequest := by decide +kernel

/-! ### The array: 2.9 -/

/-- 2.9: sector 5 with 6 free units, three ERASED, sector 17 RETIRED as all others. -/
def meetsEnd : State :=
  storeOf [(5, sectorRow .active 1 (some 7) 250 6), (9, sectorRow .erased 120 none 2 0), (12, sectorRow .erased 118 none 2 0),
    (30, sectorRow .erased 118 none 2 0)]

def record100 : Image := .record .plain 0x0100 (List.replicate 100 0xAA) 1

/-- 2.9.1: 100 bytes are 8 units; sector 5 is closed with waste 12, and sector 12 is chosen. -/
theorem test_place_closes_and_activates :
    let t := (meetsEnd.place record100).1
    record100.units = 8 ∧ (t.sec 5).state = .full ∧ (t.sec 5).waste = 12 ∧ (t.sec 5).nextFree = 256 ∧
      t.array.op = some (.activation 12 record100) := by decide +kernel

/-- 2.9.2, 2.9.3: the activation record of sector 12 fails; it is retired with reason 03H, and sector 30 is tried with the next sequence. -/
theorem test_activation_failure_retires :
    let s := { ((meetsEnd.place record100).1.setTenancy .move) with reclaim := { Reclaimer.start with state := .moving, victim := some 5 } }
    let t := after (.activationRecordComplete .verifyFail) s
    (t.sec 12).state = .retired ∧ t.array.recorded = false ∧ t.array.nextSeq = 9 ∧
      t.array.op = some (.activation 30 record100) ∧
      (t.noticeQueue .p).entries.head? = some { kind := .wear, subject := 0x000C, detail := 0x03000076, repeats := 1, seen := false } := by
  decide +kernel

/-- 2.9.4: a second failure in a suspect sector closes it with retire-pending, waste 254. -/
theorem test_second_failure_closes :
    let s := storeOf [(30, { sectorRow .active 118 (some 9) 10 8 with suspect := true }), (9, sectorRow .erased 120 none 2 0)]
    let t := s.imageFailed record100 { sector := 30, unit := 10 } true
    (t.sec 30).state = .full ∧ (t.sec 30).waste = 254 ∧ (t.sec 30).nextFree = 256 ∧ (t.sec 30).retirePending = true := by
  decide +kernel

/-- 2.10, steps 1 and 5: with 3 ERASED sectors the commit is granted first, with 2 the reclaimer. -/
theorem test_grant_order :
    let claims := fun s : State => (s.setReclaim { Reclaimer.start with state := .claimMove }).setQueue [.accepted .s 1]
    let three := claims (storeOf [(9, sectorRow .erased 1 none 2 0), (20, sectorRow .erased 1 none 2 0), (41, sectorRow .erased 1 none 2 0)])
    let two := claims (storeOf [(20, sectorRow .erased 1 none 2 0), (41, sectorRow .erased 1 none 2 0)])
    three.nextClaim = some (.commit (.accepted .s 1)) ∧ two.nextClaim = some .move := by decide +kernel

/-! ### Commit: 5.11 and 5.10 -/

/-- 5.11.1 and 5.11.2: one fresh sector, allowed with 4 ERASED sectors and not with 2; the room is then 436 units. -/
theorem test_packing :
    let sizes := [20, 32, 2, 1, 1]
    let s := storeOf [(22, sectorRow .active 80 (some 0x3F) 230 40), (3, sectorRow .erased 50 none 2 0), (11, sectorRow .erased 60 none 2 0),
      (26, sectorRow .erased 70 none 2 0), (40, sectorRow .erased 70 none 2 0)]
    let short := storeOf [(22, sectorRow .active 80 (some 0x3F) 230 40), (3, sectorRow .erased 50 none 2 0),
      (11, sectorRow .erased 60 none 2 0), (7, sectorRow .full 55 (some 1) 256 180), (15, sectorRow .full 90 (some 2) 256 170),
      (16, sectorRow .full 90 (some 3) 256 20)]
    s.fits sizes = true ∧ short.fits sizes = false ∧ short.room = 436 := by decide +kernel

/-- 5.10.2: the first image of a granted COMMIT; T is taken and the RECORD placed at the next free unit. -/
theorem test_commit_begins :
    let t := after (.commit .p 1) (ready.setRow .p (session .write [putOf 0x0700 .plain 30, putOf 0x0710 .plain 50]))
    t.commit.nextTxn = 2 ∧ (t.row .p).state = .committing ∧ (t.link .p).replies = [] ∧
      t.array.op = some (.image (.record .plain 0x0700 (List.replicate 30 0xAA) 1) { sector := 5, unit := 2 }) := by decide +kernel

/-- A COMMIT of these entries on Link S whose images stand at these units of sector 5, its MARK in flight behind them. -/
def marking (entries : List StagedEntry) (images : List (Nat × Nat)) (markUnit : Nat) : State :=
  let s := ready.setRow .s { session .service entries with state := .committing }
  let s := (s.hold .s .commit 0x2A).setQueue [{ CommitJob.accepted .s 1 with
    state := .writing, granted := true, txn := some 1, position := entries.length + 1
    written := images.map fun p => { location := { sector := 5, unit := p.1 }, size := p.2 } }]
  ((s.setSec 5 { s.sec 5 with nextFree := markUnit }).setTenancy .commit).startOp
    (.image (.mark 1 entries.length) { sector := 5, unit := markUnit })

/-- 1.10.1: behind images of 4, 2 and 2 units the MARK is done: the entries, the reply, the MARK read back. -/
theorem test_mark_done :
    let t := after (.programComplete .done true)
      (marking [putOf 0x0100 .plain 40, putOf 0x0200 .counter 4, putOf 0x0300 .once 16] [(2, 4), (6, 2), (8, 2)] 10)
    t.directory.map DirEntry.location =
        [{ sector := 5, unit := 2 }, { sector := 5, unit := 6 }, { sector := 5, unit := 8 }] ∧
      (t.sec 5).nextFree = 11 ∧ lastReply t .s = some (0xC0, [0x00, 0, 0, 0, 0, 0, 1, 3, 0]) ∧
      readImage t.array.mem 5 10 = .valid (.mark 1 3) := by decide +kernel

/-- 5.10.3: CONFLICT names the key, takes no number and keeps the list. -/
theorem test_commit_conflict :
    let entry : StagedEntry := { key := 0x0100, op := .put .plain (some 3) [] 0 }
    let t := after (.commit .p 1) (stored.setRow .p (session .write [entry]))
    lastReply t .p = some (0xC0, [0x43, 0x01, 0x00, 0, 0, 0, 0, 0, 0]) ∧ t.commit.nextTxn = 1 ∧ (t.row .p).staging = [entry] := by
  decide +kernel

/-! ### Reclaim: 6.9 and 6.10 -/

/-- 6.10, steps 1 to 4: the job waits, no FULL sector gives a victim, and the ACTIVE sector is closed and taken. -/
theorem test_waiting_commit_closes_active :
    let s := (storeOf [(1, sectorRow .erased 1 none 2 0), (27, sectorRow .erased 2 none 2 0), (19, sectorRow .active 1 (some 9) 226 12)])
    let s := s.setRow .p (session .write [putOf 1 .plain 300, putOf 2 .plain 300])
    let s := s.setReclaim { Reclaimer.start with rotation := 10 }
    let t := after (.commit .p 1) s
    s.room = 42 ∧ t.reclaim.rotation = 11 ∧ t.reclaim.forced = false ∧ (t.sec 19).state = .erasing ∧
      t.array.op = some (.erase 19) := by decide +kernel

/-- 6.9.1: the FULL sector of the most waste is the victim, and a retire-pending one goes before it. -/
theorem test_victim_choice :
    let s := storeOf [(4, sectorRow .full 1 (some 5) 256 90), (8, sectorRow .full 400 (some 6) 256 244)]
    s.chooseStep false [] = some 8 ∧
      (s.setSec 4 { s.sec 4 with retirePending := true }).chooseStep false [] = some 4 := by decide +kernel

/-- R133: RECLAIM with a FULL sector of no waste schedules a cycle. -/
theorem test_reclaim_schedules :
    let s := (storeOf [(4, sectorRow .full 1 (some 5) 256 0), (8, sectorRow .erased 1 none 2 0)]).setRow .s (session .service [])
    lastReply (after (.reclaim .s 1) s) .s = some (0xE0, [0x00, 1]) ∧
      lastReply (after (.reclaim .s 1) (ready.setRow .s (session .service []))) .s = some (0xE0, [0x00, 0]) := by decide +kernel

/-! ### Starts: 7.7 and 7.8 -/

/-- Sectors 10 and 33 of 7.7 in small: 4EH, the start of 50H in sector 10, its end and the unmarked 51H in sector 33. -/
def afterLoss : Memory :=
  let put := fun (m : Memory) (i : Sector) (u : Nat) (img : Image) => Memory.writeBytes m (unitAddress i u) img.bytes
  let m := put [] 10 2 (.record .plain 0x0C01 (List.replicate 20 1) 0x4E)
  let m := put m 10 5 (.mark 0x4E 1)
  let m := put m 10 6 (.void 0x0C04 0x50)
  let m := put m 33 2 (.record .plain 0x0C01 [3] 0x50)
  let m := put m 33 4 (.mark 0x50 2)
  put m 33 5 (.record .plain 0x0C05 [4] 0x51)

/-- 7.7.2, 7.7.3, the replay once the heads are read: 50H is found whole across the sector end and joins the sectors; 51H leaves nothing
but its number. -/
theorem test_scan_replay :
    let rows := storeOf [(10, sectorRow .full 510 (some 0x20) 2 0), (33, sectorRow .full 498 (some 0x21) 2 0)]
    let s := (rows.setMem afterLoss).setMount { State.reset.mount with scan := { ScanRecord.start with highestSeq := 0x21 } }
    let t := s.scanReplay
    t.directory.map (fun e => (e.key, e.location.sector.val, e.location.unit, e.stale)) = [(0x0C01, 33, 2, 1), (0x0C04, 10, 6, 0)] ∧
      t.commit.nextTxn = 0x52 ∧ t.array.nextSeq = 0x22 ∧ (t.sec 33).state = .active ∧ (t.sec 33).nextFree = 7 ∧
      (t.sec 33).waste = 2 ∧ (t.sec 10).waste = 3 + 249 ∧ t.reclaim.span[33] = some 10 := by decide +kernel

/-- R147: the record of sector 47 ends the initialisation: READY, and STARTED on both links with flag INITIALISED. -/
theorem test_initialisation_ends :
    let s := { State.reset with
      array := { State.reset.array with
        table := Vector.replicate 48 (sectorRow .erased 1 none 2 0), epoch := some 1, op := some (.eraseRecord 47) }
      mount := { State.reset.mount with phase := .decide, flags := { StartFlags.none with initialised := true } } }
    let t := after (.eraseRecordComplete .done) s
    t.mount.mode = .ready ∧ t.countState .erased = 48 ∧ t.array.tenancy = .none ∧
      (t.noticeQueue .s).entries = [{ kind := .started, subject := 1, detail := 8, repeats := 1, seen := false }] := by decide +kernel

/-- R152: PFAIL ends the sessions, and the start waits for PFAIL to be deasserted. -/
theorem test_pfail_and_return :
    let t := after .pfailAssert (ready.setRow .p (session .write []))
    t.mount.mode = .halted ∧ (t.row .p).state = .none ∧ after .supplyReturnStart t = t ∧
      (after .supplyReturnStart (after .pfailDeassert t)).mount.cause = .supplyReturn := by decide +kernel

/-- R136: RESET asserted empties the notice queues, and its release begins a RESET-PIN start. -/
theorem test_reset_pin :
    let t := after .resetAssert (ready.setNotices .p [kc 1 1 1 false])
    t.noticeQueue .p = { entries := [], attn := false } ∧ (after .resetRelease t).mount.cause = .resetPin := by decide +kernel

/-- 7.8, steps 1 and 2: the first group of a format, under the epoch above. -/
theorem test_format_first_group :
    let s := (storeOf [(3, sectorRow .erased 1 none 2 0), (20, sectorRow .erased 1 none 2 0), (21, sectorRow .full 1 (some 1) 256 0)])
    let t := after (.format .s 1) (s.setRow .s (session .service []))
    t.mount.mode = .formatting ∧ t.array.epoch = some 4 ∧ t.array.op = some (.erase 3) ∧ (t.link .s).held.isSome = true ∧
      (after (.eraseComplete .done) t).array.op = some (.eraseRecord 3) := by decide +kernel

/-- R30, R33: an erase beyond its deadline retires the sector with reason 01H and the raised count. -/
theorem test_erase_deadline_retires :
    let s := storeOf [(3, sectorRow .erasing 7 none 256 254)]
    let s := { (s.setTenancy .erase).startOp (.erase 3) with reclaim := { Reclaimer.start with state := .erasing, victim := some 3 } }
    let t := (s.eraseStepFailed 3 .eraseFailed)
    (t.sec 3).state = .retired ∧ (t.sec 3).eraseCount = 8 ∧
      ((t.noticeQueue .s).entries.head?).map Notice.detail = some 0x01000008 := by decide +kernel

/-- R58, R56: a millisecond of the lease on an empty queue. -/
theorem test_tick_lease :
    ((tick (ready.setRow .p (session .read []))).row .p).leaseRemaining = some 4999 := by decide +kernel

/-- R139: the classes of a sector's head. -/
theorem test_head_classes :
    let record := Memory.writeBytes [] (unitAddress 3 0) (eraseRecordBytes 4 7)
    classify [] 3 = .blank ∧ classify record 3 = .erased ∧
      classify (Memory.writeBytes record (unitAddress 3 1) (activationBytes 9 0)) 3 = .inUse ∧
      classify (record.write (unitAddress 3 1) 0) 3 = .damaged ∧ classify (Memory.write [] (unitAddress 3 200) 0) 3 = .damaged := by
  decide +kernel

/-- `n` entries of 3 bytes, keys 1 to n. -/
def staged (n : Nat) : List StagedEntry :=
  (List.range n).map fun i => putOf (BitVec.ofNat 16 (i + 1)) .plain 3

/-- READY with a WRITE session on Link P that has these entries. -/
def withStaged (l : List StagedEntry) : State :=
  ready.setRow .p (session .write l)

/-- R164, R165, R175: on Link S in FORMATTING with no held request NOTICES and ACK are NOT-READY; on Link P they are carried out. -/
theorem test_notices_in_formatting :
    let s := (ready.setNotices .s [kc 1 1 1 false]).setMode .formatting
    lastReply (after (.notices .s 1) s) .s = some (0x82, [0x11, 0]) ∧ lastReply (after (.ack .s 1 1) s) .s = some (0x83, [0x11, 0, 0, 0]) ∧
      (after (.ack .s 1 1) s).notices = s.notices ∧ lastReply (after (.notices .p 1) s) .p = some (0x82, [0x00, 0]) := by
  decide +kernel

/-- R63, R110: a break meets a job that is DONE: it runs on, its row orphaned; a QUEUED one leaves the queue. -/
theorem test_break_meets_done_job :
    let job := fun st : JobState => ((ready.setRow .p { session .write (staged 1) with state := .committing }).setTenancy .commit).setQueue
      [{ CommitJob.accepted .p 1 with state := st }]
    ((after (.lineBreak .p) (job .done)).row .p).orphaned = true ∧ (after (.lineBreak .p) (job .done)).commit.queue.length = 1 ∧
      ((after (.lineBreak .p) (job .queued)).row .p).state = .none ∧ (after (.lineBreak .p) (job .queued)).commit.queue = [] := by
  decide +kernel

/-- 10.5: the reply frame on the line, 15 bytes, the check over offsets 1 to 12; the request frame of COMMIT. -/
theorem test_reply_frame_bytes :
    let f := frame 0x2A 0xC0 [0x00, 0, 0, 0, 0, 0, 0x61, 2, 0]
    let check := crc16 [9, 0x2A, 0xC0, 0, 0, 0, 0, 0, 0, 0x61, 2, 0]
    f.bytes = [0xC3, 9, 0x2A, 0xC0, 0, 0, 0, 0, 0, 0, 0x61, 2, 0, check.extractLsb' 8 8, check.extractLsb' 0 8] ∧ f.bytes.length = 15 ∧
      ((ready.placeFrame .p f).link .p).tx = .sending f.bytes := by decide +kernel

/-- R184: a transmit line is at mark when idle, and held at mark while RESET is asserted. -/
theorem test_transmit_lines :
    let s := ready.placeFrame .p (frame 9 0x81 [0])
    (ready.link .p).tx = .mark ∧ (s.link .p).tx ≠ .mark ∧ ((after (.replySent .p) s).link .p).tx = .mark ∧
      ((after .resetAssert s).link .p).tx = .mark := by decide +kernel

/-! ### Witnesses: states and operands that meet the hypotheses of the statements, clause by clause -/

theorem witness_StatusReports : Passes ready .p 1 := by
  unfold Passes Fresh; decide +kernel

/-- The bound of ACK and one more; Link S in FORMATTING with no held request; Link P there. -/
theorem witness_NoticesAndAck :
    let s := ready.setNotices .p overflowed
    let formatting := ready.setMode .formatting
    Passes s .p 1 ∧ s.mount.mode ≠ .halted ∧ s.mount.mode ≠ .formatting ∧ (8 : Byte).toNat ≤ (s.noticeQueue .p).entries.length ∧
      (s.noticeQueue .p).entries.length < (9 : Byte).toNat ∧
      (Passes formatting .s 1 ∧ formatting.mount.mode = .formatting ∧ (formatting.link .s).held = none) ∧ Passes formatting .p 1 ∧
      Link.p ≠ .s := by
  unfold Passes Fresh; decide +kernel

theorem witness_NoticeTakenInOneOfFourWays :
    let has := fun (q : List Notice) (kind : NoticeKind) (subject : Half) => ∃ n ∈ q, n.kind = kind ∧ n.subject = subject
    NoticeKind.wear ≠ .lost ∧ has overflowed .wear 0x0011 ∧ (¬ has overflowed .wear 0 ∧ ∃ n ∈ overflowed, n.kind = .lost) ∧
      (¬ has fetched .wear 0 ∧ (¬ ∃ n ∈ fetched, n.kind = .lost) ∧ fetched.length = 6) ∧
      (¬ has (overflowed.take 7) .wear 0 ∧ (¬ ∃ n ∈ overflowed.take 7, n.kind = .lost) ∧ (overflowed.take 7).length = 7) := by
  decide +kernel

theorem witness_OpenOpensSession :
    let badField := fun privilege lease : Byte => privilege = 0 ∨ 3 < privilege.toNat ∨ lease = 0 ∨ 120 < lease.toNat
    let held := ready.setRow .s (session .service [])
    PassesFree ready .s 1 ∧ answersMode ready.mount.mode ∧ ((ready.row .s).state = .none ∧ (ready.row .s).orphaned = false) ∧
      (Privilege.service.code = 3 ∧ ¬ badField 3 120 ∧ ¬ badField 1 1) ∧ (badField 3 121 ∧ badField 4 1 ∧ badField 0 1) ∧
      (PassesFree held .s 1 ∧ (held.row .s).state ≠ .none ∧ (held.row .s).orphaned = false) ∧
      (PassesFree (held.orphanRow .s) .s 1 ∧ ((held.orphanRow .s).row .s).orphaned = true) ∧ PassesFree ready .p 1 := by
  unfold PassesFree Passes Fresh answersMode; decide +kernel

/-- A demotion with the bounds of the lease; a field out of range on each side; SERVICE on Link P. -/
theorem witness_RenewAndClose :
    let s := ready.setRow .p (session .write [putOf 1 .plain 3])
    let badField := fun privilege lease : Byte => privilege = 0 ∨ 3 < privilege.toNat ∨ lease = 0 ∨ 120 < lease.toNat
    PassesFree s .p 1 ∧ answersMode s.mount.mode ∧ OpenWith (s.row .p) .write ∧ 1 ≤ (1 : Byte).toNat ∧ (120 : Byte).toNat ≤ 120 ∧
      (Link.p = .p → Privilege.read ≠ .service) ∧ ((s.row .p).state ≠ .none ∧ (s.row .p).orphaned = false) ∧
      (badField 0 1 ∧ badField 4 1 ∧ badField 1 0 ∧ badField 1 121) ∧
      (¬ badField 3 120 ∧ ¬ badField 3 1) ∧ (s.row .p).state = .opened := by
  unfold PassesFree Passes Fresh answersMode OpenWith; decide +kernel

/-- Erase records of epochs 4 and 3; sector 5 IN-USE with sector 7 in its retired set; sectors 8 to 10 DAMAGED in the three ways. -/
def headed : Memory :=
  let record := fun (m : Memory) (i : Sector) (epoch : Word) (n : Nat) => Memory.writeBytes m (unitAddress i 0) (eraseRecordBytes epoch n)
  let m := record (record (record (record (record [] 3 4 7) 5 4 9) 6 3 100) 7 4 5) 10 4 1
  let m := Memory.writeBytes m (unitAddress 5 1) (activationBytes 2 (1#48 <<< 7))
  Memory.write (Memory.write (Memory.write m (unitAddress 8 200) 0) (unitAddress 9 0) 0) (unitAddress 10 1) 0

/-- Every class; no erase record in a blank array and in one that is not; a current epoch with an IN-USE sector and with none. -/
theorem witness_ScanReadsHeads :
    let m := headed
    let erasedOnly := Memory.writeBytes [] (unitAddress 3 0) (eraseRecordBytes 0xFFFFFFFE 7)
    let dirty := Memory.write [] (unitAddress 47 255) 0
    (unitBlank m 0 0 = true ∧ blankFrom m 0 1 = true) ∧ (unitBlank m 8 0 = true ∧ blankFrom m 8 1 = false) ∧
      (unitBlank m 9 0 = false ∧ readEraseRecord m 9 = none) ∧
      (unitBlank m 3 0 = false ∧ readEraseRecord m 3 ≠ none ∧ unitBlank m 3 1 = true) ∧
      (unitBlank m 5 0 = false ∧ readEraseRecord m 5 ≠ none ∧ unitBlank m 5 1 = false ∧ readActivation m 5 ≠ none) ∧
      (unitBlank m 10 0 = false ∧ readEraseRecord m 10 ≠ none ∧ unitBlank m 10 1 = false ∧ readActivation m 10 = none) ∧
      (currentEpoch (headsOf []) = none ∧ ∀ i, classify [] i = .blank) ∧
      (currentEpoch (headsOf dirty) = none ∧ ∃ i, classify dirty i ≠ .blank) ∧
      (currentEpoch (headsOf m) = some 4 ∧ classify m 5 = .inUse ∧ (readEraseRecord m 5).map Prod.fst = some 4) ∧
      (currentEpoch (headsOf erasedOnly) = some 0xFFFFFFFE ∧ ∀ i, classify erasedOnly i ≠ .inUse) := by
  decide +kernel

/-- R139, R140, R145: what the heads of that array give: the set with sector 7, one row ERASED, one FULL, one RETIRED, and four to repair. -/
theorem test_scan_heads :
    let t := (State.reset.setMem headed).takeHeads 4 (headsOf headed)
    t.array.retiredSet = 0x80 ∧ t.mount.scan.largest = 100 ∧ t.mount.scan.highestSeq = 2 ∧ (t.sec 3).state = .erased ∧
      (t.sec 5).state = .full ∧ (t.sec 7).state = .retired ∧
      (t.mount.scan.todo.filter fun x => x.kind != .blank) =
        [{ sector := 6, kind := .staleEpoch }, { sector := 8, kind := .damaged }, { sector := 9, kind := .damaged },
          { sector := 10, kind := .damaged }] := by
  decide +kernel

/-- The list holds the key; a list of 7; a list of 8. -/
theorem witness_WatchListChanges :
    let watching := fun keys : List Key => ready.setRow .p { session .read [] with watch := keys }
    let meets := fun s : State =>
      PassesFree s .p 1 ∧ answersMode s.mount.mode ∧ (s.row .p).state = .opened ∧ (s.row .p).orphaned = false
    let seven : List Key := [1, 2, 3, 4, 5, 6, 7]
    meets (watching seven) ∧ meets (watching (seven ++ [8])) ∧ (7 : Key) ∈ seven ∧ (0xFFFE : Key) ∉ seven ++ [8] ∧
      ((0xFFFE : Key) ≠ 0 ∧ (0xFFFE : Key) ≠ 0xFFFF) ∧ (freshLease ((watching (seven ++ [8])).row .p)).watch.length = 8 ∧
      ((0xFFFF : Key) = 0 ∨ (0xFFFF : Key) = 0xFFFF) := by
  unfold PassesFree Passes Fresh answersMode; decide +kernel

/-- A lease that runs, no session, a held FORMAT; an empty queue with the part running, and with RESET asserted. -/
theorem witness_LeaseRunsAndExpires :
    let s := ready.setRow .s (session .service [])
    let suspended := fun s : State => (s.row .s).state ≠ .opened ∨ (s.link .s).held.map Held.kind = some .format
    s.running = true ∧ ¬ suspended s ∧ suspended ready ∧ suspended (s.hold .s .format 1) ∧
      (s.pending = [] ∧ ¬ (s.mount.activity = .scan ∧ s.mount.phase = .heads ∧ s.array.op = none)) ∧
      ((s.setResetPin true).pending = [] ∧ (s.setResetPin true).running = false) := by
  decide +kernel

/-- No row; an orphaned row; a WRITE session; UNFORMATTED with a SERVICE session. -/
theorem witness_NoSessionRefused :
    let orphan := (ready.setRow .p (session .write [])).orphanRow .p
    let writer := ready.setRow .p (session .write [])
    let bare := (ready.setRow .s (session .service [])).setMode .unformatted
    PassesFree ready .p 1 ∧ ready.mount.mode = .ready ∧ answersMode ready.mount.mode ∧ (ready.row .p).state = .none ∧
      (PassesFree orphan .p 1 ∧ orphan.mount.mode = .ready ∧ (orphan.row .p).orphaned = true) ∧
      (List.replicate 224 (0 : Byte)).length ≤ 224 ∧
      (PassesFree writer .p 1 ∧ answersMode writer.mount.mode ∧ ¬ ((writer.row .p).state = .none ∨ (writer.row .p).orphaned = true) ∧
        (writer.row .p).privilege ≠ some .service) ∧
      (PassesFree bare .s 1 ∧ bare.mount.mode = .unformatted ∧ OpenWith (bare.row .s) .service) := by
  unfold PassesFree Passes Fresh answersMode OpenWith; decide +kernel

theorem witness_ModeRefusesRequests :
    (∀ m ∈ [StoreMode.halted, .mounting, .formatting], PassesFree (ready.setMode m) .p 1 ∧ (ready.setMode m).mount.mode = m) ∧
      (List.replicate 224 (0 : Byte)).length ≤ 224 := by
  unfold PassesFree Passes Fresh; decide +kernel

/-- An image that reads back, at the largest offset, one beyond and the largest length; a COPY of it; and a blank unit in its place. -/
theorem witness_ReadCommittedView :
    let e := liveAt 0x0300 .once 16 1 8
    let copied := stored.setMem (Memory.writeBytes [] (unitAddress 5 8) (Image.copyRecord .once 0x0300 bodyOf0300 1).bytes)
    let meets := fun s : State =>
      PassesFree s .p 1 ∧ answersMode s.mount.mode ∧ ((s.row .p).state = .opened → ∀ x ∈ (s.row .p).staging, x.key ≠ 0x0300) ∧
        s.directory.find? (fun x => x.key == 0x0300) = some e
    meets stored ∧ meets copied ∧ meets (stored.setMem []) ∧ (224 : Byte).toNat ≤ 224 ∧ (16 : Half).toNat ≤ 16 ∧ 16 < (17 : Half).toNat ∧
      readImage stored.array.mem 5 8 = .valid (.record .once 0x0300 bodyOf0300 1) ∧
      readImage copied.array.mem 5 8 = .valid (.copyRecord .once 0x0300 bodyOf0300 1) ∧ readImage (stored.setMem []).array.mem 5 8 = .blank := by
  unfold PassesFree Passes Fresh answersMode; decide +kernel

/-- A staged PUT, DELETE and ADD; the ADD to a LIVE COUNTER whose image is a RECORD, a COPY or unreadable, to another class, to no entry; the
largest offset and one beyond. -/
theorem witness_ReadStagedView :
    let staged := fun (e : StagedEntry) (s : State) => s.setRow .p (session .service [e])
    let add : StagedEntry := { key := 0x0200, op := .add 1 }
    let copied := stored.setMem (Memory.writeBytes [] (unitAddress 5 19) (Image.copyRecord .counter 0x0200 [0, 0, 0, 0x15] 2).bytes)
    let meets := fun (e : StagedEntry) (s : State) =>
      PassesFree (staged e s) .p 1 ∧ answersMode (staged e s).mount.mode ∧ ((staged e s).row .p).state = .opened ∧
        ((staged e s).row .p).staging.find? (fun x => x.key == e.key) = some e
    (∀ e ∈ [putOf 0x0200 .counter 4, { key := 0x0200, op := .delete none }, add,
        { key := 0x0300, op := .add 1 }, { key := 0x0400, op := .add 1 }], meets e stored) ∧ meets add copied ∧ meets add (stored.setMem []) ∧
      Directory.live stored.directory 0x0200 = some (.counter, liveAt 0x0200 .counter 4 2 19) ∧ (4 : Half).toNat ≤ 4 ∧ 4 < (5 : Half).toNat ∧
      readImage stored.array.mem 5 19 = .valid (.record .counter 0x0200 [0, 0, 0, 0x15] 2) ∧
      readImage copied.array.mem 5 19 = .valid (.copyRecord .counter 0x0200 [0, 0, 0, 0x15] 2) ∧ readImage [] 5 19 = .blank ∧
      Directory.live stored.directory 0x0300 = some (.once, liveAt 0x0300 .once 16 1 8) ∧ Directory.live stored.directory 0x0400 = none := by
  unfold PassesFree Passes Fresh answersMode; decide +kernel

theorem witness_ReadRefusedInOrder :
    let mounting := ready.setMode .mounting
    (Passes mounting .p 1 ∧ (mounting.link .p).held = none ∧ mounting.mount.mode = .mounting) ∧ PassesFree stored .p 1 ∧
      answersMode stored.mount.mode ∧ (¬ ((0x0400 : Key) = 0 ∨ (0x0400 : Key) = 0xFFFF)) ∧ 224 < (225 : Byte).toNat ∧
      (∀ x ∈ (stored.row .p).staging, x.key ≠ 0x0400) ∧ ∀ e ∈ stored.directory, e.key = 0x0400 → e.body = .deleted := by
  unfold PassesFree Passes Fresh answersMode; decide +kernel

/-- The last key and the largest count; a starting key and counts out of range. -/
theorem witness_ListAnswersPage :
    let badCount := fun count : Byte => count = 0 ∨ 16 < count.toNat
    PassesFree stored .p 1 ∧ answersMode stored.mount.mode ∧ ¬ ((0xFFFE : Key) = 0 ∨ (0xFFFE : Key) = 0xFFFF) ∧
      ((0xFFFF : Key) = 0 ∨ (0xFFFF : Key) = 0xFFFF) ∧ ¬ badCount 16 ∧ ¬ badCount 1 ∧ badCount 0 ∧ badCount 17 := by
  unfold PassesFree Passes Fresh answersMode; decide +kernel

/-- A WRITE session naming ONCE; a PUT of another class; a LIVE ONCE entry; a new key; an expected generation that is right; a list whose second
entry fails. -/
theorem witness_ChangeChecksInOrder :
    let live := fun key : Key => (Directory.live stored.directory key).map Prod.fst
    Privilege.write ≠ .read ∧ live 0x0400 = none ∧ live 0x0200 = some .counter ∧ live 0x0300 = some .once ∧ RecClass.plain ≠ .counter ∧
      Directory.live stored.directory 0x0300 = some (.once, liveAt 0x0300 .once 16 1 8) ∧ (1 : Word) ≠ 0 ∧
      (entryCheck stored.directory .write (putOf 0x0400 .plain 1) = none ∧
        entryCheck stored.directory .write (putOf 0x0300 .plain 1) = some .onceViolation) := by
  decide +kernel

/-- What every staging statement asks of the state. -/
def StagingReady (s : State) (p : Privilege) : Prop :=
  PassesFree s .p 1 ∧ s.mount.mode = .ready ∧ OpenWith (s.row .p) p

/-- A list of 15, then of 16 (a new key, then a key it holds); exactly the free bytes, then one more; a class field of 4; a COUNTER of 3 and of 4
bytes; a change that the directory refuses. -/
theorem witness_PutAndDeleteStage :
    let place := fun (s : State) (key : Key) =>
      ((s.row .p).staging.find? fun x => x.key == key).isSome = true ∨ ((s.row .p).staging.length < 16 ∧ 1 ≤ s.poolFreeSlots)
    let room := fun (s : State) (key : Key) (n : Nat) =>
      place s key ∧ n ≤ s.poolFreeBytes + (((s.row .p).staging.find? fun x => x.key == key).map StagedEntry.bytes).getD 0
    let tight := (withStaged [putOf 1 .plain 496, putOf 2 .plain 496]).setRow .s (session .service [putOf 3 .plain 324])
    let once := stored.setRow .p (session .write [])
    (∀ s ∈ [withStaged (staged 15), withStaged (staged 16), tight, once], StagingReady s .write) ∧
      room (withStaged (staged 15)) 0xFFFE 224 ∧ ¬ room (withStaged (staged 16)) 0xFFFE 0 ∧ room (withStaged (staged 16)) 16 224 ∧
      room tight 0xFFFE 220 ∧ ¬ room tight 0xFFFE 221 ∧ changeCheck ready.directory .write 0xFFFE (some .plain) false = none ∧
      Privilege.write ≠ .read ∧ (0xFFFE : Key) ≠ 0 ∧ (List.replicate 224 (0 : Byte)).length ≤ 224 ∧ 3 < (4 : Byte).toNat ∧
      RecClass.counter.code = 3 ∧ ([0, 0, 0] : List Byte).length ≠ 4 ∧ ([0, 0, 0, 0] : List Byte).length = 4 ∧
      changeCheck once.directory .write 0x0300 (some .plain) false = some .onceViolation ∧
      changeCheck once.directory .write 0x0300 none false = some .onceViolation ∧
      changeCheck ready.directory .write 17 none false = none ∧ place (withStaged (staged 15)) 17 ∧ ¬ place (withStaged (staged 16)) 17 ∧
      place (withStaged (staged 16)) 16 := by
  unfold StagingReady PassesFree Passes Fresh OpenWith; decide +kernel

/-- A body of 448 and 100 bytes more, with room and without; no entry; a COUNTER; a change that the directory refuses. -/
theorem witness_AppendExtendsPut :
    let tight := (withStaged [putOf 1 .plain 448, putOf 2 .plain 496]).setRow .s (session .service [putOf 3 .plain 496, putOf 4 .plain 49])
    let once := stored.setRow .p (session .write [putOf 0x0300 .plain 1])
    (∀ s ∈ [withStaged [putOf 1 .plain 448], tight],
      StagingReady s .write ∧ (s.row .p).staging.find? (fun x => x.key == 1) = some (putOf 1 .plain 448)) ∧
      min 100 (496 - 448) ≤ (withStaged [putOf 1 .plain 448]).poolFreeBytes ∧ tight.poolFreeBytes < min 100 (496 - 448) ∧
      changeCheck ready.directory .write 1 (some .plain) false = none ∧
      (StagingReady (withStaged []) .write ∧ ((withStaged []).row .p).staging.find? (fun x => x.key == 1) = none) ∧
      (StagingReady (withStaged [putOf 1 .counter 4]) .write ∧
        ((withStaged [putOf 1 .counter 4]).row .p).staging.find? (fun x => x.key == 1) = some (putOf 1 .counter 4)) ∧
      (StagingReady once .write ∧ (once.row .p).staging.find? (fun x => x.key == 0x0300) = some (putOf 0x0300 .plain 1) ∧
        changeCheck once.directory .write 0x0300 (some .plain) false = some .onceViolation) := by
  unfold StagingReady PassesFree Passes Fresh OpenWith; decide +kernel

/-- No entry; an ADD, its sum at the largest value and one beyond; a COUNTER PUT; another PUT; a DELETE. -/
theorem witness_AddStagesDelta :
    let entries : List StagedEntry :=
      [{ key := 1, op := .add 0x7FFFFFFE }, { key := 1, op := .put .counter none [0, 0, 0, 9] 0 }, putOf 1 .plain 4,
        { key := 1, op := .delete none }]
    (∀ e ∈ entries, StagingReady (withStaged [e]) .write ∧ ((withStaged [e]).row .p).staging.find? (fun x => x.key == 1) = some e) ∧
      StagingReady (withStaged []) .write ∧ 1 ≤ (withStaged []).poolFreeSlots ∧
      changeCheck ready.directory .write 1 none true = none ∧ changeCheck ready.directory .write 1 (some .counter) false = none ∧
      (0x7FFFFFFE : Word).toInt + (1 : Word).toInt = 2147483647 ∧ 2147483647 < (0x7FFFFFFE : Word).toInt + (2 : Word).toInt := by
  unfold StagingReady PassesFree Passes Fresh OpenWith; decide +kernel

/-- A full list; changes that the directory refuses. -/
theorem witness_AddStagesDelta_refused :
    let full := withStaged (staged 16)
    let other := stored.setRow .p (session .write [putOf 0x0100 .counter 4])
    (StagingReady full .write ∧ (full.row .p).staging.find? (fun x => x.key == 17) = none ∧
        changeCheck full.directory .write 17 none true = none ∧ 16 ≤ (full.row .p).staging.length) ∧
      (StagingReady other .write ∧ changeCheck other.directory .write 0x0300 none true = some .onceViolation ∧
        changeCheck other.directory .write 0x0100 (some .counter) false = some .classMismatch) := by
  unfold StagingReady PassesFree Passes Fresh OpenWith; decide +kernel

theorem witness_DropStagedAbort :
    StagingReady (withStaged (staged 16)) .write ∧ (∃ x ∈ ((withStaged (staged 16)).row .p).staging, x.key = 16) ∧
      ∀ x ∈ ((withStaged (staged 16)).row .p).staging, x.key ≠ 17 := by
  unfold StagingReady PassesFree Passes Fresh OpenWith; decide +kernel

theorem witness_StagingRefusedInOrder :
    let row := fun r : SessionRow => ready.setRow .p r
    let holds := fun s : State => (s.row .p).state ≠ .none ∧ (s.row .p).orphaned = false
    let committing := row { session .write [] with state := .committing }
    PassesFree (ready.setMode .unformatted) .p 1 ∧ PassesFree (ready.setMode .readOnly) .p 1 ∧
      (PassesFree ready .p 1 ∧ ready.mount.mode = .ready ∧ ¬ holds ready) ∧
      (PassesFree (row (session .read [])) .p 1 ∧ holds (row (session .read []))) ∧
      (PassesFree committing .p 1 ∧ holds committing ∧ (committing.row .p).privilege ≠ some .read ∧
        (committing.row .p).state = .committing) ∧
      (holds (withStaged []) ∧ ((withStaged []).row .p).privilege ≠ some .read ∧ ((withStaged []).row .p).state ≠ .committing) := by
  unfold PassesFree Passes Fresh; decide +kernel

/-! #### The scan -/

/-- A replay with `n` images of transaction 7 listed. -/
def replaying (n : Nat) (broken : List Word) : Replay :=
  { part := stored, pending := some { number := 7, images := List.replicate n (.void 1 7, { sector := 5, unit := 2 }) }, broken := broken,
    highest := 7, torn := false }

/-- 384 entries at keys that are not staged. -/
def fullDirectory : List DirEntry :=
  (List.range 384).map fun i => liveAt (BitVec.ofNat 16 (0x0200 + i)) .plain 0 1 2

/-- The number broken; listed with 15 and with 16 images; another number; a MARK of the count and one below. An offered image with no entry, room
or not, and of an entry's generation or one less. A unit of each kind, and the sector's end. -/
theorem witness_ReplayTakesImages :
    let number := fun r : Replay => r.pending.map PendingTxn.number
    let images := fun r : Replay => (r.pending.map fun p => p.images.length).getD 0
    let m := Memory.writeBytes (Memory.writeBytes stored.array.mem (unitAddress 5 40) (List.replicate 16 0)) (unitAddress 5 50) [1]
    (Image.void 2 7).number ∈ (replaying 15 [7]).broken ∧
      ((Image.void 2 7).number ∉ (replaying 15 []).broken ∧ number (replaying 15 []) = some (Image.void 2 7).number ∧
        images (replaying 15 []) < 16 ∧ 16 ≤ images (replaying 16 [])) ∧ number (replaying 15 []) ≠ some (Image.void 2 8).number ∧
      (images (replaying 15 []) ≤ 15 ∧ 14 < images (replaying 15 [])) ∧
      (Directory.find stored.directory 0x0400 = none ∧ stored.directory.length < 384) ∧
      (Directory.find fullDirectory 0x0100 = none ∧ 384 ≤ fullDirectory.length) ∧
      (Directory.find stored.directory 0x0300 = some (liveAt 0x0300 .once 16 1 8) ∧ (1 : Word).toNat ≤ (Image.void 0x0300 1).number.toNat ∧
        (Image.void 0x0300 0).number.toNat < (1 : Word).toNat) ∧
      readImage m 5 8 = .valid (.record .once 0x0300 bodyOf0300 1) ∧ readImage m 5 40 = .fill ∧ readImage m 5 50 = .invalid ∧
      readImage m 5 255 = .blank := by
  decide +kernel

/-- Sectors 10 and 33 of 7.7 over these bytes, their heads read. -/
def replayed (m : Memory) : State :=
  ((storeOf [(10, sectorRow .full 510 (some 0x20) 2 0), (33, sectorRow .full 498 (some 0x21) 2 0)]).setMem m).setMount
    { State.reset.mount with scan := { ScanRecord.start with highestSeq := 0x21 } }

/-- Sector 33 has the highest sequence alone. Its blank tail opens; a byte in the tail, or in the unit where the walk ends, does not. -/
theorem witness_ReplayTakesImages_tail :
    let part := fun m : Memory => (replayOf (replayed m) [10, 33]).part.sec 33
    let late := Memory.write afterLoss (unitAddress 33 9) 0
    let torn := Memory.write afterLoss (unitAddress 33 7) 0
    ((List.finRange 48).filter fun i => decide (((replayed afterLoss).sec i).state = .full)) = [10, 33] ∧
      ((replayed afterLoss).sequenceOf 33 = 0x21 ∧ (replayed afterLoss).sequenceOf 10 ≠ 0x21) ∧
      ((part afterLoss).nextFree = 7 ∧ blankFrom afterLoss 33 7 = true) ∧ ((part late).nextFree = 7 ∧ blankFrom late 33 7 = false) ∧
      (part torn).nextFree = 256 := by
  decide +kernel

/-- Each kind of task with its count (L = 100 in that array; L = 0), worn and not; each operation's end in a part that goes on or has stopped. -/
theorem witness_RepairAndDecide :
    let s := (State.reset.setMem headed).takeHeads 4 (headsOf headed)
    let counting := fun n : Nat => s.setMount { s.mount with scan := { s.mount.scan with largest := n } }
    let flying := fun op : ArrayOp => (s.setTenancy .scan).startOp op
    s.mount.scan.largest = 100 ∧ State.reset.mount.scan.largest = 0 ∧ (counting 100000).mount.scan.largest = 100000 ∧
      (readEraseRecord s.array.mem 6).map Prod.snd = some 100 ∧
      (∀ op ∈ [ArrayOp.eraseRecord 8, .erase 8], (flying op).running = true ∧ (flying op).array.tenancy = .scan ∧
        (flying op).array.op = some op ∧ (flying op).stopped = false ∧ ((flying op).setMode .halted).stopped = true) ∧
      OpOutcome.verifyFail ≠ .done := by
  decide +kernel

/-! #### Commit -/

/-- The clipped counts of a list. -/
def clippedCounts (l : List StagedEntry) : List Nat :=
  l.map fun e =>
    match e.op with
    | .put _ _ _ n => n
    | .delete _ => 0
    | .add _ => 0

theorem clipped_of_counts {l : List StagedEntry} (h : ∀ n ∈ clippedCounts l, n = 0) :
    ∀ e ∈ l, ∀ c x b n, e.op = .put c x b n → n = 0 := by
  intro e he c x b n ho
  refine h n (List.mem_map.2 ⟨e, he, ?_⟩)
  rw [ho]

/-- The array free, and held by the reclaimer. -/
theorem witness_CommitAccepted :
    let s := withStaged (staged 16)
    (∀ x ∈ [s, s.setTenancy .move], StagingReady x .write ∧ x.commit.queue = [] ∧ (x.row .p).staging.isEmpty = false) ∧
      (∀ n ∈ clippedCounts (s.row .p).staging, n = 0) ∧ (s.setTenancy .move).array.tenancy ≠ .none := by
  unfold StagingReady PassesFree Passes Fresh OpenWith; decide +kernel

theorem witness_CommitRefusedInOrder :
    let holds := fun s : State => (s.row .p).state ≠ .none ∧ (s.row .p).orphaned = false
    let reader := ready.setRow .p (session .read [])
    let queued := (withStaged []).setQueue [.accepted .p 1]
    let clipped : StagedEntry := { key := 9, op := .put .plain none [] 1 }
    PassesFree (ready.setMode .formatting) .p 1 ∧ (PassesFree reader .p 1 ∧ answersMode reader.mount.mode ∧ holds reader) ∧
      (∀ m ∈ [StoreMode.readOnly, StoreMode.unformatted, StoreMode.ready],
        PassesFree ((withStaged []).setMode m) .p 1 ∧ holds ((withStaged []).setMode m) ∧
          (((withStaged []).setMode m).row .p).privilege ≠ some .read) ∧
      (PassesFree queued .p 1 ∧ holds queued ∧ ∃ j ∈ queued.commit.queue, j.link = .p) ∧ ((withStaged []).row .p).staging = [] ∧
      (PassesFree (withStaged (staged 2 ++ [clipped])) .p 1 ∧ holds (withStaged (staged 2 ++ [clipped])) ∧
        ((withStaged (staged 2 ++ [clipped])).row .p).staging = staged 2 ++ clipped :: [] ∧
        ∀ n ∈ clippedCounts (staged 2), n = 0) := by
  unfold PassesFree Passes Fresh answersMode; decide +kernel

/-- 2 ERASED sectors, 40 units in the ACTIVE one, no waste. -/
def scarce : State :=
  storeOf [(1, sectorRow .erased 1 none 2 0), (2, sectorRow .erased 1 none 2 0), (5, sectorRow .active 1 (some 7) 216 0),
    (6, sectorRow .full 1 (some 3) 256 0), (7, sectorRow .full 1 (some 4) 256 0), (8, sectorRow .full 1 (some 5) 256 0)]

/-- A conflict; a full directory; the last transaction number; 41 units for 40. -/
theorem witness_CommitRefusedAtValidation :
    let meets := fun s : State =>
      StagingReady s .write ∧ Quiet s ∧ s.array.tenancy = .none ∧
        (4 < s.erasedCount ∨ ∀ k, (s.sec k).state = .full → (s.sec k).waste = 0 ∧ (s.sec k).retirePending = false) ∧
        (s.row .p).staging ≠ [] ∧ ∀ n ∈ clippedCounts (s.row .p).staging, n = 0
    let stale := stored.setRow .p (session .write [{ key := 0x0100, op := .put .plain (some 3) [] 0 }])
    let full := (withStaged (staged 1)).setDirectory fullDirectory
    let last := (withStaged (staged 1)).setNextTxn 0xFFFFFFFF
    let short := scarce.setRow .p (session .write [putOf 1 .plain 496, putOf 2 .plain 104])
    (∀ s ∈ [stale, full, last, short], meets s) ∧
      firstFailing stale.directory .write (stale.row .p).staging = some (.conflict, 0x0100) ∧
      (firstFailing full.directory .write (staged 1) = none ∧ dirFullKey full.directory (staged 1) = some 1) ∧
      (firstFailing last.directory .write (staged 1) = none ∧ dirFullKey last.directory (staged 1) = none) ∧
      (firstFailing short.directory .write (short.row .p).staging = none ∧ dirFullKey short.directory (short.row .p).staging = none ∧
        short.commit.nextTxn ≠ 0xFFFFFFFF ∧ short.fits [32, 8, 1] = false ∧ short.room = 40 ∧
        (short.row .p).staging.map StagedEntry.units ++ [1] = [32, 8, 1]) := by
  unfold StagingReady PassesFree Passes Fresh OpenWith Quiet; decide +kernel

theorem placed_of {s : State} {img : Image} (h : (s.place img).2 = true) : ∃ t, Placed s img t :=
  ⟨(s.place img).1, (place_iff _ _ _).1 (Prod.ext rfl h)⟩

theorem unreadable_of {s : State} {key : Key} (h : s.readCounter key = none) : ∀ value, ¬ CounterReads s key value := by
  intro value hv
  rw [(counterReads_iff ..).1 hv] at h
  cases h

/-- What a COMMIT of Link P with sequence 1 has done when its first image is placed. -/
def begun (s : State) (saturated : Bool) : State :=
  let job : CommitJob := { link := .p, session := 1, state := .writing, granted := true, txn := some s.commit.nextTxn, position := 1,
                           retries := 0, written := [], saturated := saturated, result := none, failingKey := 0 }
  ((((s.setNextTxn (s.commit.nextTxn + 1)).setQueue [job]).setRow .p { freshLease (s.row .p) with state := .committing }).setLink .p
    { hunting (s.link .p) with held := some { kind := .commit, sequence := 1 } }).setTenancy .commit

/-- The first RECORD takes the last units of the ACTIVE sector; a DELETE; an ADD whose value reads back, saturating; an ADD whose value does not. -/
theorem witness_CommitBeginsWriting :
    let large := (withStaged (putOf 1 .plain 496 :: staged 1)).setSec 5 { ready.sec 5 with nextFree := 224 }
    let adding := stored.setRow .p (session .write [{ key := 0x0200, op := .add 0x80000000 }])
    let meets := fun s : State =>
      StagingReady s .write ∧ Quiet s ∧ s.array.tenancy = .none ∧ (s.row .p).staging ≠ [] ∧
        (∀ n ∈ clippedCounts (s.row .p).staging, n = 0) ∧ firstFailing s.directory .write (s.row .p).staging = none ∧
        dirFullKey s.directory (s.row .p).staging = none ∧ s.commit.nextTxn ≠ 0xFFFFFFFF ∧
        s.fits ((s.row .p).staging.map StagedEntry.units ++ [1]) = true
    (∀ s ∈ [large, stored.setRow .p (session .write [{ key := 0x0100, op := .delete none }]), adding, adding.setMem []], meets s) ∧
      large.entryImage 1 (putOf 1 .plain 496) = some (.record .plain 1 (List.replicate 496 0xAA) 1, false) ∧
      ((begun large false).place (.record .plain 1 (List.replicate 496 0xAA) 1)).2 = true ∧
      adding.entryImage 1 { key := 0x0200, op := .add 0x80000000 } = some (.record .counter 0x0200 [0, 0, 0, 0] 1, true) ∧
      ((begun adding true).place (.record .counter 0x0200 [0, 0, 0, 0] 1)).2 = true ∧ (adding.setMem []).readCounter 0x0200 = none := by
  unfold StagingReady PassesFree Passes Fresh OpenWith Quiet; decide +kernel

/-- A COMMIT of these entries on Link P, sequence 7, its first image in flight. -/
def writingOf (s : State) (l : List StagedEntry) : State :=
  after (.commit .p 7) (s.setRow .p (session .write l))

def writing : State :=
  writingOf ready [putOf 1 .plain 30, putOf 2 .plain 50]

def writingJob : CommitJob :=
  { CommitJob.accepted .p 1 with state := .writing, granted := true, txn := some 1 }

def firstImage : Image := .record .plain 1 (List.replicate 30 0xAA) 1

/-- The part once the first image of `s` is programmed. -/
def firstDone (s : State) : State :=
  (s.clearOp.setMem (Memory.writeBytes s.array.mem (5 * 4096 + 2 * 16) firstImage.bytes)).setSec 5
    { s.sec 5 with nextFree := (s.sec 5).nextFree + firstImage.units }

/-- The job after the first image. -/
def onTo (s : State) : State :=
  (firstDone s).setQueue [{ writingJob with written := [{ location := { sector := 5, unit := 2 }, size := 3 }], position := 2 }]

/-- What is left fits or, with 2 ERASED sectors and the ACTIVE one full, does not. -/
def restFits (s : State) (position : Nat) : Bool :=
  s.fits (((s.row .p).staging.map StagedEntry.units ++ [1]).drop position)

/-- A part that PFAIL has stopped, and one that owes a RESTART. -/
def halts (s : State) : List State :=
  [s.setMode .halted, s.oweRestart 1]

/-- A next entry, an unreadable ADD next, the MARK next; the rest fitting or not; the part stopped. -/
theorem witness_ProgramDoneGoesOn :
    let adding := ((writingOf stored [putOf 1 .plain 30, { key := 0x0200, op := .add 1 }]).setMem []).startOp
      (.image firstImage { sector := 5, unit := 2 })
    let last := writingOf ready [putOf 1 .plain 30]
    let tight := fun l : List StagedEntry => let s := writingOf scarce l; s.setSec 5 { s.sec 5 with nextFree := 253 }
    let two := tight [putOf 1 .plain 30, putOf 2 .plain 50]
    let one := tight [putOf 1 .plain 30]
    (∀ s ∈ [writing, last, two, one, adding],
      s.running = true ∧ s.stopped = false ∧ s.array.tenancy = .commit ∧ s.commit.queue = [writingJob]) ∧
      (∀ s ∈ [writing, last], s.array.op = some (.image firstImage { sector := 5, unit := 2 }) ∧ restFits (firstDone s) 1 = true) ∧
      (∀ s ∈ [two, one], restFits (firstDone s) 1 = false) ∧
      ((writing.row .p).staging[1]? = some (putOf 2 .plain 50) ∧
        (firstDone writing).entryImage 1 (putOf 2 .plain 50) = some (.record .plain 2 (List.replicate 50 0xAA) 1, false) ∧
        ((onTo writing).place (.record .plain 2 (List.replicate 50 0xAA) 1)).2 = true) ∧
      ((adding.row .p).staging[1]? = some { key := 0x0200, op := .add 1 } ∧ (firstDone adding).readCounter 0x0200 = none) ∧
      ((last.row .p).staging.length ≤ 1 ∧ ((onTo last).place (.mark 1 1)).2 = true) ∧
      (∀ s ∈ halts writing, s.running = true ∧ s.stopped = true ∧ s.array.tenancy = .commit ∧ s.commit.queue = [writingJob] ∧
        s.array.op = some (.image firstImage { sector := 5, unit := 2 })) := by
  decide +kernel

/-- R112: after PFAIL the image in flight ends DONE or fails; the job ends with HALTED, its images waste, its row ended. -/
theorem test_writing_job_halts :
    let s := after .pfailAssert writing
    let done := after (.programComplete .done true) s
    let failed := after (.programComplete .verifyFail true) s
    s.stopped = true ∧ (∀ t ∈ [done, failed], lastReply t .p = some (0xC0, 0x12 :: commitFields 0 (some 1) 0 false) ∧
      (t.sec 5).waste = 3 ∧ t.commit.queue = [] ∧ (t.row .p).state = .none ∧ t.array.tenancy = .none ∧ t.array.op = none) := by
  decide +kernel

/-- A second failure, the image placed again; the same with no room; a third failure; a failure in a part that has stopped. -/
theorem witness_ProgramFailedRetries :
    let failing := fun (s : State) (n : Nat) => s.setQueue [{ writingJob with retries := n }]
    let tight := let s := writingOf scarce [putOf 1 .plain 30]; s.setSec 5 { s.sec 5 with nextFree := 253 }
    let again := fun (s : State) (ok : Bool) => failedSpan s firstImage { sector := 5, unit := 2 } ok
    (∀ s ∈ [failing writing 1, failing writing 2], s.running = true ∧ s.stopped = false ∧ s.array.tenancy = .commit ∧
      s.array.op = some (.image firstImage { sector := 5, unit := 2 })) ∧ OpOutcome.deadline ≠ .done ∧
      (∀ ok, restFits (again (failing writing 1) ok) 0 = true ∧
        (((again (failing writing 1) ok).setQueue [{ writingJob with retries := 2 }]).place firstImage).2 = true) ∧
      ((failing tight 1).running = true ∧ (failing tight 1).stopped = false ∧ (failing tight 1).array.tenancy = .commit ∧
        restFits (again (failing tight 1) true) 0 = false) ∧
      (∀ s ∈ halts writing, s.running = true ∧ s.stopped = true ∧ s.array.tenancy = .commit ∧ s.commit.queue = [writingJob] ∧
        s.array.op = some (.image firstImage { sector := 5, unit := 2 })) := by
  decide +kernel

/-- The MARK of the only job; of a job with another behind it, in HALTED, its row orphaned, the other link watching a key. -/
theorem witness_MarkDoneEndsCommit :
    let s := marking (staged 2) [(2, 2), (4, 2)] 6
    let crowded := ((s.setQueue (s.commit.queue ++ [.accepted .p 2])).setRow .p { session .read [] with watch := [2] }).setMode .halted
    let orphan := s.setRow .s { s.row .s with orphaned := true, watch := [] }
    (∀ u ∈ [s, crowded, orphan], u.running = true ∧ u.array.tenancy = .commit ∧
      u.array.op = some (.image (.mark 1 2) { sector := 5, unit := 6 }) ∧ (u.commit.queue.head?.map CommitJob.state) = some .writing) ∧
      crowded.commit.queue.map CommitJob.link = [.s, .p] ∧ s.commit.queue.length = 1 ∧ s.reclaim.state = .idle ∧ s.mount.format = none := by
  decide +kernel

/-- No entry; an entry in the ACTIVE sector; an entry in a RETIRED one. -/
theorem witness_ApplyTakesImage :
    let moved := stored.setSecState 5 .retired
    Directory.find stored.directory 0x0400 = none ∧ Directory.find stored.directory 0x0300 = some (liveAt 0x0300 .once 16 1 8) ∧
      (stored.sec 5).state = .active ∧ Directory.find moved.directory 0x0300 = some (liveAt 0x0300 .once 16 1 8) ∧
      (moved.sec 5).state = .retired := by
  decide +kernel

/-- 65 units, with 40 free and 50 of waste. -/
theorem witness_CommitWaitsForSpace :
    let s := (scarce.setSec 6 { scarce.sec 6 with waste := 50 }).setRow .p (session .write [putOf 1 .plain 496, putOf 2 .plain 496])
    let s := s.setQueue [.accepted .p 1]
    s.mount.mode = .ready ∧ (s.row .p).privilege = some .write ∧ firstFailing s.directory .write (s.row .p).staging = none ∧
      dirFullKey s.directory (s.row .p).staging = none ∧ s.commit.nextTxn ≠ 0xFFFFFFFF ∧
      s.fits ((s.row .p).staging.map StagedEntry.units ++ [1]) = false ∧
      ((s.row .p).staging.map StagedEntry.units ++ [1]).sum ≤ s.room := by
  decide +kernel

/-! #### The array -/

/-- `ready` with the array held and an operation in flight. -/
def flying (t : Tenancy) (op : ArrayOp) : State :=
  (ready.setTenancy t).startOp op

/-- A job that writes and a move phase; a part that goes on and one that has stopped; after the failure another ERASED sector and none. -/
theorem witness_ActivationRecordEnds :
    let op : ArrayOp := .activation 9 record100
    let writes := (flying .commit op).setQueue [writingJob]
    let moves := (flying .move op).setReclaim { Reclaimer.start with state := .moving, victim := some 5 }
    let only := fun s : State => s.setTable ((storeOf [(5, sectorRow .active 1 (some 7) 2 0), (9, sectorRow .erased 1 none 2 0)]).array.table)
    let failed := fun s : State =>
      ((s.clearOp.setNextSeq (s.array.nextSeq + 1)).scribble (9 * 4096 + 16) 16).retire 9 .activationFailed
    (∀ s ∈ [writes, moves, only writes, only moves] ++ halts writes ++ halts moves,
      s.running = true ∧ s.array.tenancy ≠ .none ∧ s.array.op = some op) ∧
      (∀ s ∈ [writes, moves, only writes, only moves], s.stopped = false) ∧ (∀ s ∈ halts writes ++ halts moves, s.stopped = true) ∧
      OpOutcome.verifyFail ≠ .done ∧ OpOutcome.deadline ≠ .done ∧
      (∀ s ∈ [writes, moves], (failed s).chooseErased = some 12) ∧ (∀ s ∈ [only writes, only moves], (failed s).chooseErased = none) ∧
      (∀ s ∈ [writes, only writes] ++ halts writes, s.array.tenancy = .commit ∧ s.commit.queue = [writingJob]) ∧
      writingJob.state = .writing ∧ (∀ s ∈ [moves, only moves] ++ halts moves, s.array.tenancy = .move ∧ s.reclaim.victim = some 5) := by
  decide +kernel

/-- A victim retire-pending, worn, and neither; an erase that raises the count to 90,000 and one that does not. -/
theorem witness_EraseGrantedAndDone :
    let s := flying .erase (.erase 9)
    let counted := fun n : Nat => s.setSec 9 { s.sec 9 with eraseCount := n }
    let record := flying .erase (.eraseRecord 9)
    ((s.setSec 9 { s.sec 9 with retirePending := true }).sec 9).retirePending = true ∧
      (∀ n ∈ [99999, 100000], ((counted n).sec 9).retirePending = false ∧ ((counted n).sec 9).eraseCount = n) ∧
      (∀ n ∈ [89998, 89999], (counted n).running = true ∧ (counted n).array.tenancy ≠ .none ∧ (counted n).array.op = some (.erase 9)) ∧
      (record.running = true ∧ record.array.op = some (.eraseRecord 9) ∧ record.array.tenancy = .erase) := by
  decide +kernel

theorem witness_FailureRetiresSector :
    (flying .erase (.erase 9)).running = true ∧ (flying .erase (.erase 9)).array.tenancy = .erase ∧ OpOutcome.verifyFail ≠ .done ∧
      (flying .erase (.erase 9)).array.op = some (.erase 9) ∧ (flying .erase (.eraseRecord 9)).array.op = some (.eraseRecord 9) := by
  decide +kernel

theorem witness_DeadlineEndsOperation :
    ready.running = true ∧ ready.array.op = none ∧ writing.array.op = some (.image firstImage { sector := 5, unit := 2 }) ∧
      (∀ op ∈ [ArrayOp.activation 9 record100, .erase 9, .eraseRecord 9],
        (flying .erase op).running = true ∧ (flying .erase op).array.op = some op) := by
  decide +kernel

/-- Sector 8 FULL, its live records a COUNTER at unit 2 and, DELETED, a VOID at unit 4; a MARK, a fill unit, torn bytes and blank units after it. -/
def moving : State :=
  let put := fun (m : Memory) (u : Nat) (img : Image) => Memory.writeBytes m (unitAddress 8 u) img.bytes
  let m := put (put (put [] 2 (.record .counter 1 [0, 0, 0, 1] 5)) 4 (.void 2 5)) 5 (.mark 5 2)
  let m := Memory.write (Memory.writeBytes m (unitAddress 8 6) (List.replicate 16 0)) (unitAddress 8 7) 1
  let at8 := fun (key : Key) (body : EntryBody) (unit : Nat) =>
    ({ key := key, body := body, generation := 5, location := { sector := 8, unit := unit }, stale := 0, dropPending := false } : DirEntry)
  (((ready.setMem m).setSec 8 (sectorRow .full 3 (some 2) 256 200)).setDirectory [at8 1 (.live .counter 4) 2, at8 2 .deleted 4]).setReclaim
    { Reclaimer.start with state := .moving, victim := some 8 }

/-- `moving` with the walk at this unit. -/
def walkAt (u : Nat) (s : State) : State :=
  s.setReclaim { s.reclaim with walkUnit := u }

/-- A victim with room for its live images and with none; each kind of unit; an image not current, one that the entry denies, a VOID to drop, one
to copy with a place and, with no ERASED sector, with none. -/
theorem witness_MoveWalks :
    let denied := moving.setDirectory [{ liveAt 1 .counter 4 6 2 with location := { sector := 8, unit := 2 } }]
    let noneErased := (storeOf [(5, sectorRow .active 1 (some 7) 255 0), (8, sectorRow .full 3 (some 2) 256 200)]).setDirectory moving.directory
    let copy : Image := .copyRecord .counter 1 [0, 0, 0, 1] 5
    (moving.setTenancy .move).chooseVictim false 49 [] = some 8 ∧ 254 - (moving.sec 8).waste ≤ 254 + 254 * moving.erasedCount ∧
      (noneErased.setTenancy .move).chooseVictim false 49 [] = some 8 ∧ 1 + 254 * noneErased.erasedCount < 254 - (noneErased.sec 8).waste ∧
      readImage moving.array.mem 8 2 = .valid (.record .counter 1 [0, 0, 0, 1] 5) ∧ readImage moving.array.mem 8 4 = .valid (.void 2 5) ∧
      readImage moving.array.mem 8 5 = .valid (.mark 5 2) ∧ readImage moving.array.mem 8 6 = .fill ∧
      readImage moving.array.mem 8 7 = .invalid ∧ readImage moving.array.mem 8 8 = .blank ∧
      (Directory.find moving.directory 1).map DirEntry.location = some { sector := 8, unit := 2 } ∧
      (Directory.find denied.directory 1).map DirEntry.generation = some 6 ∧ (moving.setRetired 0 true).array.recorded = true ∧
      ((walkAt 2 moving).place copy).2 = true ∧ ((∀ k, (noneErased.sec k).state ≠ .erased) ∧ noneErased.activeSector = some 5) ∧
      (noneErased.setSecState 5 .full).activeSector = none := by
  decide +kernel

/-- The tally: an open transaction of the MARK's number and another's; an image current and not. -/
theorem witness_MoveWalks_tally :
    let current := fun (key : Key) (unit : Nat) =>
      (Directory.find moving.directory key).map DirEntry.location = some { sector := 8, unit := unit }
    let opened : OpenTxn := { number := 5, images := [] }
    opened.number = (Image.mark 5 2).number ∧ opened.number ≠ (Image.mark 6 2).number ∧ current 1 2 ∧ ¬ current 1 9 ∧
      (Image.copyVoid 1 5).key? = some 1 ∧ (Image.void 1 5).key? = some 1 := by
  decide +kernel

/-- A COPY done and failed, in a part that goes on or has stopped, with 1 and 2 failures before; a joined victim; a grant that gives no cycle. -/
theorem witness_MovePhaseEnds :
    let copy : Image := .copyRecord .counter 1 [0, 0, 0, 1] 5
    let s := (moving.setTenancy .move).startOp (.image copy { sector := 5, unit := 2 })
    let again := fun n : Nat =>
      (failedSpan s copy { sector := 5, unit := 2 } true).setReclaim { s.reclaim with copyFailures := n + 1 }
    let waiting := (s.setQueue [{ CommitJob.accepted .p 1 with state := .waitingSpace }]).setReclaim { s.reclaim with forced := true }
    (∀ u ∈ [s, s.setMode .halted], u.running = true ∧ u.array.tenancy = .move ∧
      u.array.op = some (.image copy { sector := 5, unit := 2 }) ∧ u.reclaim.victim = some 8) ∧
      s.stopped = false ∧ (s.setMode .halted).stopped = true ∧ OpOutcome.verifyFail ≠ .done ∧ ((again 1).place copy).2 = true ∧
      (waiting.commit.queue.map CommitJob.state = [.waitingSpace] ∧ waiting.reclaim.forced = true) ∧ s.reclaim.forced = false := by
  decide +kernel

/-- Sectors 4, 8 and 9 FULL, in that order of age, sector 9 the least erased of them. -/
def threeFull : State :=
  storeOf [(4, sectorRow .full 3 (some 5) 256 90), (8, sectorRow .full 400 (some 6) 256 90), (9, sectorRow .full 2 (some 7) 256 1)]

/-- ERASED sectors of one count; none ERASED; candidates with waste, with retire-pending, one set aside; a rotation; no waste, with requested set
and clear. -/
theorem witness_SectorsChosen :
    let pending := threeFull.setSec 9 { threeFull.sec 9 with retirePending := true }
    let full := storeOf [(4, sectorRow .full 3 (some 5) 256 0), (9, sectorRow .full 2 (some 7) 256 0)]
    ready.chooseErased = some 12 ∧ threeFull.chooseErased = none ∧ threeFull.chooseStep false [] = some 4 ∧
      threeFull.chooseStep false [4] = some 8 ∧ (∀ rotates, pending.chooseStep rotates [] = some 9) ∧ threeFull.chooseStep true [] = some 9 ∧
      full.chooseStep false [] = none ∧ (full.setReclaim { full.reclaim with requested := true }).chooseStep false [] = some 9 := by
  decide +kernel

/-- Sector 8 joined to 9 and 9 to 4: with nothing barred the victim is the first of the chain, with sector 4 barred none of the three is. -/
def chained (barred : List Sector) : State :=
  threeFull.setReclaim { threeFull.reclaim with span := (threeFull.reclaim.span.set 8 (some 9)).set 9 (some 4), barred := barred }

theorem witness_SectorsChosen_chains :
    ChainRoot (chained []) 8 4 ∧ (chained []).chooseVictim true 49 [] = some 4 ∧ (chained [4]).chooseStep false [] = some 8 ∧
      (chained [4]).chooseVictim false 49 [] = none ∧ threeFull.chooseVictim false 49 [] = some 4 :=
  ⟨.joined (p := 9) (by decide +kernel) (.joined (p := 4) (by decide +kernel) (.first (by decide +kernel))), by decide +kernel⟩

/-- R122: no candidate, with no head waiting and with a waiting one and waste in the ACTIVE sector; that sector closed is the victim with room for
its live units, is it without room, or is barred. -/
theorem witness_SectorsChosen_second :
    let waiting := fun s : State => s.setQueue [{ CommitJob.accepted .p 1 with state := .waitingSpace }]
    let roomy := waiting (scarce.setSec 5 { scarce.sec 5 with waste := 50 })
    let tight := waiting (storeOf [(5, sectorRow .active 1 (some 7) 216 50)])
    let barred := roomy.setReclaim { roomy.reclaim with barred := [5] }
    let held := fun s : State => s.setTenancy .move
    let closed := fun s : State => withClosed (held s) 5
    (∀ s ∈ [scarce, roomy, tight, barred], (held s).chooseVictim (s.reclaim.rotation + 1 == 32) 49 [] = none) ∧
      scarce.headWaiting = false ∧
      (∀ s ∈ [roomy, tight, barred], s.headWaiting = true ∧ s.activeSector = some 5 ∧ (s.sec 5).waste = 50 ∧ (closed s).activeSector = none) ∧
      (∀ s ∈ [roomy, tight], (closed s).chooseVictim (s.reclaim.rotation + 1 == 32) 49 [] = some 5) ∧
      254 - ((closed roomy).sec 5).waste ≤ 254 * (closed roomy).erasedCount ∧
      254 * (closed tight).erasedCount < 254 - ((closed tight).sec 5).waste ∧
      (closed barred).chooseVictim (barred.reclaim.rotation + 1 == 32) 49 [] = none := by
  decide +kernel

/-- With 2 ERASED sectors and 3; a commit claim alone with 2; a waiting head; a FORMAT; the array held; HALTED; a RESTART owed. -/
theorem witness_ArbiterGrantsInOrder :
    let claims := fun s : State => (s.setReclaim { Reclaimer.start with state := .claimMove }).setQueue [.accepted .s 1]
    let two := claims scarce
    let three := claims (scarce.setSecState 6 .erased)
    let alone := two.setReclaim Reclaimer.start
    let formatting := ready.setFormat (some (.accepted .ready (some 3)))
    (two.formatClaim = none ∧ two.reclaimClaim = some .move ∧ two.erasedCount = 2 ∧ two.array.tenancy = .none ∧ two.stopped = false) ∧
      (alone.formatClaim = none ∧ alone.commitClaim = some (.commit (.accepted .s 1)) ∧ alone.reclaimClaim = none ∧ alone.erasedCount = 2) ∧
      (three.commitClaim = some (.commit (.accepted .s 1)) ∧ three.erasedCount = 3) ∧
      ((three.setQueue [{ CommitJob.accepted .s 1 with state := .waitingSpace }]).headWaiting = true ∧
        (three.setQueue [{ CommitJob.accepted .s 1 with state := .waitingSpace }]).commitClaim = none) ∧
      formatting.formatClaim = some (.format (.accepted .ready (some 3))) ∧ ready.nextClaim = none ∧
      (ready.setTenancy .move).array.tenancy ≠ .none ∧ (ready.setMode .halted).mount.mode = .halted ∧
      (ready.oweRestart 0).mount.restart ≠ .none := by
  decide +kernel

/-! #### RECLAIM, FORMAT, RESTART -/

theorem witness_ReclaimSchedulesCycle :
    let meets := fun s : State => PassesFree s .s 1 ∧ (s.mount.mode = .ready ∨ s.mount.mode = .readOnly) ∧ OpenWith (s.row .s) .service
    let none := ready.setRow .s (session .service [])
    let some := scarce.setRow .s (session .service [])
    (meets none ∧ ∀ k, ¬ ((none.sec k).state = .full ∧ k ∉ none.reclaim.barred)) ∧
      (meets some ∧ ∃ k, (some.sec k).state = .full ∧ k ∉ some.reclaim.barred) := by
  unfold PassesFree Passes Fresh OpenWith; decide +kernel

theorem witness_FormatFromRequestToEnd :
    let free := ready.setRow .s (session .service [])
    let taken := free.setRow .p (session .read [])
    let busy := fun s : State =>
      (s.row .p).state ≠ .none ∨ s.commit.queue ≠ [] ∨ (s.mount.mode ≠ .unformatted ∧ s.erasedCount = 0)
    (∀ s ∈ [free, taken, free.setTenancy .move], PassesFree s .s 1 ∧ answersMode s.mount.mode ∧ OpenWith (s.row .s) .service) ∧
      ¬ busy free ∧ busy taken ∧ ¬ busy (free.setTenancy .move) ∧ (free.setTenancy .move).array.tenancy ≠ .none := by
  unfold PassesFree Passes Fresh OpenWith answersMode; decide +kernel

/-- Counts on both sides of the limit; each stage with each operation in flight; a MOVED sector retire-pending, worn and neither, and none; 5
sectors left from READY and 8. -/
theorem witness_FormatFromRequestToEnd_runs :
    let record : FormatRecord := .accepted .ready (some 3)
    let at9 := fun (stage : FormatStage) (op : ArrayOp) => (flying .format op).setFormat (some { record with stage := stage })
    let moved := fun (n : Nat) (pending : Bool) =>
      ready.setSec 9 { ready.sec 9 with state := .moved, eraseCount := n, retirePending := pending }
    (∀ n ∈ [99999, 100000], ((ready.setSec 9 { ready.sec 9 with eraseCount := n }).sec 9).eraseCount = n) ∧
      (∀ stage ∈ [FormatStage.first, .second, .unwinding], ∀ op ∈ [ArrayOp.erase 9, .eraseRecord 9],
        (at9 stage op).running = true ∧ (at9 stage op).stopped = false ∧ (at9 stage op).array.tenancy = .format ∧
          (at9 stage op).mount.format = some { record with stage := stage } ∧ (at9 stage op).array.op = some op) ∧
      (∀ k, (ready.sec k).state ≠ .moved) ∧
      (∀ x ∈ [(1, true), (100000, false), (99999, false)], ((moved x.1 x.2).sec 9).state = .moved ∧
        (∀ k, ((moved x.1 x.2).sec k).state = .moved → (9 : Sector) ≤ k) ∧ ((moved x.1 x.2).sec 9).retirePending = x.2 ∧
        ((moved x.1 x.2).sec 9).eraseCount = x.1) ∧
      (record.previousMode = .ready ∧ meetsEnd.standing < 6) ∧ ¬ (record.previousMode = .ready ∧ ready.standing < 6) := by
  decide +kernel

theorem witness_RestartOwesStart :
    let s := ready.setRow .s (session .service [])
    let gone := ready.setMount { ready.mount with restart := .replyGone }
    (∀ x ∈ [s, s.setQueue [.accepted .p 1]], PassesFree x .s 1 ∧ answersMode x.mount.mode ∧ OpenWith (x.row .s) .service) ∧
      s.commit.queue = [] ∧ (s.setQueue [.accepted .p 1]).commit.queue.length = 1 ∧
      (gone.running = true ∧ gone.pins.pfailAsserted = false ∧ gone.mount.restart = .replyGone ∧ gone.array.op = none) ∧
      (ready.running = true ∧ ready.pins.pfailAsserted = false ∧ ready.mount.restart ≠ .replyGone) := by
  unfold PassesFree Passes Fresh OpenWith answersMode; decide +kernel

/-! #### The links -/

/-- The longest request, the shortest body of an APPEND, no body; a link in HUNT, the longest body of a frame. -/
theorem witness_FramesAndBytes :
    requestFits (.put 0xFFFF 0xFF (some 0xFFFFFFFF) (List.replicate 224 0)) = true ∧ requestFits (.append 0 []) = true ∧
      requestFits .status = true ∧ ready.linkTakes .p = true ∧ (ready.link .p).framer = .hunt ∧
      (List.replicate 240 (0 : Byte)).length ≤ 240 := by
  decide +kernel

theorem witness_RequestBodiesRoundTrip :
    let long : Request := .put 0x1234 3 (some 0x89ABCDEF) (List.replicate 224 7)
    requestFits long = true ∧ (bodyOf long).length = 232 ∧ (bodyOf long).take 8 = [0x12, 0x34, 3, 1, 0x89, 0xAB, 0xCD, 0xEF] := by
  decide +kernel

/-- A full queue; the held request again; the cached reply again; a frame in progress. -/
theorem witness_LinkStepsInOrder :
    let f := frame 9 0x81 [0]
    let full := ready.setLink .p { ready.link .p with replies := [f, f, f, f] }
    let held := ready.hold .p .commit 9
    let cached := ready.placeFrame .p f
    let inFrame := after (.byteReceived .p 0xC3 false) ready
    (∀ s ∈ [ready, full, held, cached, inFrame], s.linkTakes .p = true) ∧ (frame 9 1 []).check ≠ (frame 9 1 []).check + 1 ∧
      4 ≤ (full.link .p).repliesTaken ∧ ((held.link .p).repliesTaken < 4 ∧ (held.link .p).held.map Held.sequence = some 9) ∧
      ((cached.link .p).repliesTaken < 4 ∧ (cached.link .p).held.map Held.sequence ≠ some 9 ∧ (cached.link .p).cache = some f ∧
        f.sequence = 9) ∧
      (inFrame.link .p).framer = .length ∧ (ready.link .p).framer = .hunt ∧ 240 < (241 : Byte).toNat ∧ (0xC2 : Byte) ≠ 0xC3 := by
  decide +kernel

/-- A kind below 80H and one above; a body that does not fit; READ beside a held COMMIT. -/
theorem witness_LinkStepsInOrder_answers :
    let held := ready.hold .p .commit 9
    Passes ready .p 1 ∧ (∀ k ∈ ReqKind.all, k.code ≠ 0x7E ∧ k.code ≠ 0x80) ∧ parseBody .commit [7] = none ∧ Passes held .p 1 ∧
      parseBody .read [2, 0, 0, 0, 1] ≠ none ∧ (held.link .p).held ≠ none ∧ ReqKind.read ≠ .status ∧ ReqKind.read ≠ .notices ∧
      ReqKind.read ≠ .ack := by
  unfold Passes Fresh; decide +kernel

/-- One frame, two, none; a line at mark and one at space. -/
theorem witness_ReplySentAndLineLevels :
    let replying := ready.placeFrame .s (frame 9 0x81 [0])
    let spaced := after (.receiveLineToSpace .s) ready
    (∀ s ∈ [ready, replying, spaced], s.running = true) ∧ (replying.link .s).replies = [frame 9 0x81 [0]] ∧
      ((replying.placeFrame .s (frame 10 0x81 [0])).link .s).replies = [frame 9 0x81 [0], frame 10 0x81 [0]] ∧
      (ready.link .s).replies = [] ∧ (ready.link .s).line = .mark ∧ (spaced.link .s).line ≠ .mark := by
  decide +kernel

/-- No session, with a RESTART reply queued; an OPEN one; a job in each state, the array free and held, the reclaimer idle and moving. -/
theorem witness_BreakResetsLink :
    let holds := fun s : State => (s.row .p).state ≠ .none ∧ (s.row .p).orphaned = false
    let job := fun st : JobState => ({ CommitJob.accepted .p 1 with state := st } : CommitJob)
    let committing := fun st : JobState => (ready.setRow .p { session .write (staged 1) with state := .committing }).setQueue [job st]
    let moves := fun s : State => (s.setTenancy .move).setReclaim { Reclaimer.start with state := .moving }
    (∀ s ∈ [ready.oweRestart 1, withStaged (staged 1)], s.linkTakes .p = true ∧ s.array.tenancy = .none) ∧ ready.linkTakes .s = true ∧
      ¬ holds (ready.oweRestart 1) ∧ (holds (withStaged (staged 1)) ∧ ((withStaged (staged 1)).row .p).state = .opened) ∧
      (∀ st ∈ [JobState.queued, .validating, .waitingSpace, .writing, .done], ∀ s ∈ [committing st, moves (committing st)],
        s.linkTakes .p = true ∧ holds s ∧ (s.row .p).state = .committing ∧
          s.commit.queue.find? (fun x => x.link == .p) = some (job st)) ∧
      ((committing .queued).reclaim.state = .idle ∧ (moves (committing .queued)).array.tenancy ≠ .none) := by
  decide +kernel

/-! #### Supply, RESET and starts -/

/-- An operation in flight and none; supply lost with RESET released and asserted; RESET asserted; HALTED with supply back. -/
theorem witness_SupplyResetAndStarts :
    let lost := after .supplyLoss ready
    let asserted := ready.setResetPin true
    let halted := ready.setSupply .halted
    (ready.array.op = none ∧ writing.array.op = some (.image firstImage { sector := 5, unit := 2 }) ∧
        (0 < unitAddress 5 2 ∧ unitAddress 5 (2 + firstImage.units) ≤ unitAddress 5 5)) ∧
      (lost.array.op = none ∧ lost.pins.supplied = false ∧ lost.pins.resetAsserted = false ∧ (lost.setResetPin true).pins.resetAsserted = true) ∧
      (asserted.pins.resetAsserted = true ∧ asserted.pins.supplied = true) ∧ (ready.pins.resetAsserted = false ∧ ready.supply = .normal) ∧
      (halted.running = true ∧ halted.supply = .halted ∧ halted.pins.pfailAsserted = false ∧ halted.array.op = none) ∧
      (halted.setPfailPin true).pins.pfailAsserted = true ∧ (flying .erase (.erase 9)).array.op ≠ none := by
  decide +kernel

/-- The part at rest; a scan and a format with an operation in flight and with none; a held FORMAT with no job. -/
theorem witness_PfailHaltsPart :
    let s := withStaged (staged 2)
    let idle := fun a : Activity => ready.setMount { ready.mount with activity := a }
    let busy := fun a : Activity => (idle a).startOp (.erase 9)
    let formatting := (idle .format).hold .s .format 3
    (∀ u ∈ [s, writing, formatting, idle .scan, busy .scan, busy .format],
      u.running = true ∧ u.supply = .normal) ∧
      (Quiet s ∧ s.array.op = none ∧ s.mount.activity = .none ∧ (s.link .p).held = none ∧ (s.link .s).held = none ∧
        (s.row .p).state = .opened) ∧
      (∀ a ∈ [Activity.scan, .format], (idle a).mount.activity = a ∧ (idle a).array.op = none ∧ (busy a).array.op ≠ none) ∧
      (formatting.commit.queue = [] ∧ (formatting.link .s).held = some { kind := .format, sequence := 3 }) := by
  unfold Quiet; decide +kernel

/-- A job whose program is in flight, and behind it one never granted; a waiting one. -/
theorem witness_PfailHaltsPart_jobs :
    let runs := fun (s : State) (j : CommitJob) => (j.state == .validating || j.state == .writing) && s.array.op.isSome
    let s := ((writing.setRow .s { session .service (staged 1) with number := some 2, state := .committing }).hold .s .commit 4).setQueue
      [writingJob, .accepted .s 2]
    let waiting := s.setQueue [{ CommitJob.accepted .s 2 with state := .waitingSpace, granted := true }]
    (∀ u ∈ [s, waiting], QueueLaw u ∧ u.running = true ∧ u.supply = .normal ∧ (u.row .s).state = .committing ∧ (u.row .s).orphaned = false ∧
      (u.link .s).held = some { kind := .commit, sequence := 4 }) ∧
      ((s.row .p).state = .committing ∧ (s.link .p).held = some { kind := .commit, sequence := 7 } ∧ runs s writingJob = true) ∧
      (∀ j ∈ waiting.commit.queue, j.link = .s ∧ j.state = .waitingSpace ∧ j.granted = true) ∧ ∀ j ∈ waiting.commit.queue, j.link ≠ .p := by
  unfold QueueLaw; decide +kernel

/-! #### The laws: a state of the store that meets each, and a step from it -/

theorem witness_BytesReadBack : Memory.wf stored.array.mem := by
  unfold Memory.wf; decide +kernel

theorem witness_StepKeepsArrayCanonical : ArrayCanonical writing ∧ step writing = .next (tick writing) :=
  ⟨by unfold ArrayCanonical Memory.wf; decide +kernel, rfl⟩

theorem witness_StepKeepsDirectoryOrdered : DirectoryOrdered stored ∧ step stored = .next (tick stored) :=
  ⟨by unfold DirectoryOrdered; decide +kernel, rfl⟩

/-- A list of 16, and of 8 beside it: the pool is full. -/
def fullPool : State :=
  (withStaged (staged 16)).setRow .s (session .service (staged 8))

theorem witness_StepKeepsStagingLaw : StagingLaw fullPool ∧ fullPool.poolFreeSlots = 0 ∧ step fullPool = .next (tick fullPool) := by
  refine ⟨⟨fun l => ?_, fun l => ?_, fun l => ?_, ?_, ?_⟩, ?_, rfl⟩
  all_goals first | decide +kernel | (cases l <;> decide +kernel)

theorem witness_StepKeepsActiveLaw :
    ActiveLaw ready ∧ (∃ i, ready.inState .active i = true) ∧ step ready = .next (tick ready) := by
  refine ⟨⟨by decide +kernel, ?_⟩, by decide +kernel, rfl⟩
  intro i img h
  exact nomatch h

/-- Eight entries, LOST among them, on both links. -/
theorem witness_StepKeepsNoticeLaw :
    let s := (ready.setNotices .p overflowed).setNotices .s overflowed
    NoticeLaw s ∧ step s = .next (tick s) := by
  refine ⟨fun l => ?_, rfl⟩
  unfold NoticeLawOf
  cases l <;> decide +kernel

theorem witness_StepKeepsQueueLaws :
    let s := (writing.setRow .s { session .service [] with number := some 2 }).setQueue [writingJob, .accepted .s 2]
    QueueLaw s ∧ ReplyLaw s ∧ NumbersDiffer s ∧ TransmitLaw s ∧ step s = .next (tick s) := by
  refine ⟨by unfold QueueLaw; decide +kernel, fun l => ?_, by unfold NumbersDiffer; decide +kernel, fun l => ?_, rfl⟩
  · cases l <;> decide +kernel
  · unfold TransmitLawOf; cases l <;> decide +kernel

end Sys2Proof.Tests
end

section
/-!
PROOFS. What every step keeps of the directory (law 1) and of the staging pool (law 2): each single move keeps the law, so every step does.
-/

namespace Sys2Proof.Proofs

open Sys2Proof.Machine Sys2Proof.Safety Sys2Proof.Laws

variable {g : Prop} {s t : State}

/-! ### Law 1 (R7) -/

/-- Of the moves only an entry put in, the entries changed in place, a filter and a start touch the directory. -/
theorem move_keeps_directoryOrdered (m : Move g s t) (h : DirectoryOrdered s) : DirectoryOrdered t := by
  cases m with
  | dirPut e => exact put_sorted e h
  | dirMap f hf => exact List.Pairwise.map f (fun x y hxy => by rw [hf x, hf y]; exact hxy) h
  | dirFilter p => exact List.Pairwise.filter p h
  | started cause => exact List.Pairwise.nil
  | _ => exact h

/-! ### Law 2 (R4, R66, R67) -/

/-- A list that keeps some of the entries of a lawful one, in their order, is lawful in its place. -/
theorem setRow_sublist_stagingLaw (l : Link) {r : SessionRow} (h : StagingLaw s) (hr : r.staging.Sublist (s.row l).staging) :
    StagingLaw (s.setRow l r) := by
  obtain ⟨hslots, hbytes⟩ := stagingLaw_pair h l
  have ⟨hlen, hkeys, hbodies, _, _⟩ := h
  have hle := hr.length_le
  have hle' := stagedBytes_sublist hr
  refine setRow_stagingLaw l r.staging h (Nat.le_trans hle (hlen l)) ((hkeys l).sublist hr) (fun e he => hbodies l e (hr.subset he)) ?_ ?_ r rfl
  · omega
  · omega

/-- The entry that a search by key finds is in the list and of that key. -/
theorem findStaged_some {l : List StagedEntry} {k : Key} {e : StagedEntry} (h : findStaged l k = some e) : e ∈ l ∧ e.key = k :=
  ⟨List.mem_of_find?_eq_some h, by simpa using List.find?_some h⟩

theorem appended_bodyInLimits {key : Key} {cls : RecClass} {x : Option Word} {body more : List Byte} {m n : Nat} (hc : cls ≠ .counter)
    (hb : more.length ≤ 496 - body.length) (hl : bodyInLimits { key := key, op := .put cls x body m } = true) :
    bodyInLimits { key := key, op := .put cls x (body ++ more) n } = true := by
  simp only [bodyInLimits, hc, if_false, decide_eq_true_eq, List.length_append] at hl ⊢
  omega

/-- R76, R77: bytes that join a staged body within its limits and the pool's free bytes. -/
theorem append_stagingLaw {l : Link} {key : Key} {cls : RecClass} {x : Option Word} {body more : List Byte} {m n : Nat} (h : StagingLaw s)
    (hf : findStaged (s.row l).staging key = some { key := key, op := .put cls x body m }) (hc : cls ≠ .counter)
    (hb : more.length ≤ 496 - body.length) (hr : more.length ≤ s.poolFreeBytes) :
    StagingLaw (s.setStaging l (stage (s.row l).staging { key := key, op := .put cls x (body ++ more) n })) := by
  have hlimits := h.2.2.1 l _ (findStaged_some hf).1
  refine stage_stagingLaw l _ h (appended_bodyInLimits hc hb hlimits) (fun hn => ?_) ?_
  · rw [hf] at hn; cases hn
  · simp only [hf, StagedEntry.bytes, Option.map_some, Option.getD_some, List.length_append]
    omega

/-- R79: another value in a staged counter. -/
theorem sum_stagingLaw {l : Link} {key : Key} {x : Option Word} {body : List Byte} {m : Nat} (n : Nat) (v : Word) (h : StagingLaw s)
    (hf : findStaged (s.row l).staging key = some { key := key, op := .put .counter x body m }) :
    StagingLaw (s.setStaging l (stage (s.row l).staging { key := key, op := .put .counter x (be32 v) n })) := by
  have hlimits := h.2.2.1 l _ (findStaged_some hf).1
  have hlen : body.length = 4 := by simpa [bodyInLimits] using hlimits
  refine stage_stagingLaw l _ h (by simp [bodyInLimits, be32]) (fun hn => ?_) ?_
  · rw [hf] at hn; cases hn
  · simp only [hf, StagedEntry.bytes, Option.map_some, Option.getD_some, hlen, be32, List.length_cons, List.length_nil]
    omega

/-- Of the moves only those of a session's row and of its staging touch a list, and a start, which empties both. -/
theorem move_keeps_stagingLaw (m : Move g s t) (h : StagingLaw s) : StagingLaw t := by
  cases m with
  | row l r hn hs =>
    refine setRow_sublist_stagingLaw l h ?_
    rcases hs with hs | hs
    · rw [hs]; exact List.nil_sublist _
    · exact hs ▸ List.Sublist.refl _
  | stage l e hb hn hr => exact stage_stagingLaw l e h hb hn hr
  | append l key cls x body more m n hf hc hb hr => exact append_stagingLaw h hf hc hb hr
  | sum l key x body m n v hf => exact sum_stagingLaw n v h hf
  | unstage l k => exact setRow_sublist_stagingLaw l h List.filter_sublist
  | started cause =>
    have hnone : ∀ l, ((State.started cause s.pins s.array.mem s.pending s.freeCount).row l).staging = [] := fun l => by cases l <;> rfl
    simp [StagingLaw, hnone, stagedBytes]
  | _ => exact h

/-! ### The statements -/

/-- Settles O55: every move keeps the order, so every step does. -/
theorem stepKeepsDirectoryOrdered : Obligations.StepKeepsDirectoryOrdered := fun _ _ hs h =>
  step_keeps (P := DirectoryOrdered) (fun _ _ h => h) (fun _ _ m => move_keeps_directoryOrdered m) hs h

/-- Settles O56: every move keeps the staging law, so every step does. -/
theorem stepKeepsStagingLaw : Obligations.StepKeepsStagingLaw := fun _ _ hs h =>
  step_keeps (P := StagingLaw) (fun _ _ h => h) (fun _ _ m => move_keeps_stagingLaw m) hs h

end Sys2Proof.Proofs
end

section
/-!
PROOFS. READ (R20 to R22) and LIST (R23): what the owner answers at each of its branches, for the statements about the two views and about
the refusals.
-/

namespace Sys2Proof.Proofs

open Sys2Proof.Machine Sys2Proof.Safety Sys2Proof.Laws

variable {s : State} {l : Link} {sq maximum : Byte} {key offset : Half}

/-! ### Fields and views -/

theorem keyInRange_iff : keyInRange key = true ↔ key ≠ 0 ∧ key ≠ 0xFFFF := by
  simp [keyInRange]

theorem keyInRange_false_iff : keyInRange key = false ↔ key = 0 ∨ key = 0xFFFF := by
  rw [← Bool.not_eq_true, keyInRange_iff, Decidable.not_and_iff_not_or_not, Decidable.not_not, Decidable.not_not]

/-- R85: with no staged entry of the key in an OPEN session the view is the committed one. -/
theorem stagedView_none (h : (s.row l).state = .opened → ∀ x ∈ (s.row l).staging, x.key ≠ key) : s.stagedView l key = none := by
  unfold State.stagedView
  split
  · rename_i ho
    exact List.find?_eq_none.2 fun x hx => by simpa using h ho x hx
  · rfl

theorem stagedView_some {e : StagedEntry} (ho : (s.row l).state = .opened) (h : findStaged (s.row l).staging key = some e) :
    s.stagedView l key = some e := by
  unfold State.stagedView
  rw [if_pos ho, h]

theorem stagedView_atOwner : (atOwner s l).stagedView l key = s.stagedView l key := by
  simp [State.stagedView]

/-- R21: what the read path has to give for the body of an entry. -/
theorem readBody_iff {e : DirEntry} {body : List Byte} : s.readBody e = some body ↔
    ∃ c, readImage s.array.mem e.location.sector e.location.unit = .valid (.record c e.key body e.generation) ∨
      readImage s.array.mem e.location.sector e.location.unit = .valid (.copyRecord c e.key body e.generation) := by
  unfold State.readBody
  cases readImage s.array.mem e.location.sector e.location.unit with
  | valid img =>
    cases img with
    | record c k b g => simp [Image.recordBody?, Image.key?, Image.number]; grind
    | copyRecord c k b g => simp [Image.recordBody?, Image.key?, Image.number]; grind
    | _ => simp [Image.recordBody?]
  | blank => simp
  | fill => simp
  | invalid => simp

/-! ### From the link to the branches of READ -/

theorem exec_read (h : PassesFree s l sq) :
    exec (.read l sq key offset maximum) s = .next (requestRead l sq key offset maximum (atOwner s l)) :=
  congrArg Host.Outcome.next (takeRequest_free h .read (requestRead l sq key offset maximum))

/-- R20: a READ whose mode and fields are good is answered from the staged view, where the key has one. -/
theorem requestRead_staged {e : StagedEntry} (hm : answersMode s.mount.mode) (hk : keyInRange key = true)
    (hx : ¬ (maximum = 0 ∨ 224 < maximum.toNat)) (hv : s.stagedView l key = some e) :
    requestRead l sq key offset maximum s = s.readStaged l sq e offset maximum := by
  unfold requestRead
  rw [modeRefusal_answers hm]
  dsimp only
  rw [hk, if_neg (by decide), if_neg hx, hv]

theorem requestRead_committed (hm : answersMode s.mount.mode) (hk : keyInRange key = true)
    (hx : ¬ (maximum = 0 ∨ 224 < maximum.toNat)) (hv : s.stagedView l key = none) :
    requestRead l sq key offset maximum s = s.readCommitted l sq key offset maximum := by
  unfold requestRead
  rw [modeRefusal_answers hm]
  dsimp only
  rw [hk, if_neg (by decide), if_neg hx, hv]

theorem maximum_good (h1 : 1 ≤ maximum.toNat) (h2 : maximum.toNat ≤ 224) : ¬ (maximum = 0 ∨ 224 < maximum.toNat) := by
  rintro (rfl | h)
  · exact absurd h1 (by decide)
  · omega

/-! ### The replies of READ -/

/-- R183: a refused READ, with the STAGED flag and the rest of its fixed part zeros. -/
theorem refuseRead_atOwner (staged : Bool) (r : Result) :
    (atOwner s l).refuseRead l sq staged r =
      replied s l (freshLease (s.row l)) (frame sq 0xA0 [r.code, flagBit0 staged, 0, 0, 0, 0, 0, 0]) :=
  answer_atOwner .read r (readFields staged 0 0 [])

theorem refuseRead_clear (r : Result) : (atOwner s l).refuseRead l sq false r = refusedWith s l sq 0xA0 r.code 7 :=
  refuseRead_atOwner false r

theorem answerRead_beyond {staged : Bool} {g : Word} {n : Nat} {body : Option (List Byte)} (h : n < offset.toNat) :
    (atOwner s l).answerRead l sq staged g n offset maximum body = refusedWith s l sq 0xA0 0x23 7 := by
  unfold State.answerRead
  rw [if_pos h, refuseRead_clear]
  rfl

theorem answerRead_bytes {staged : Bool} {g : Word} {n : Nat} {body : List Byte} (h : offset.toNat ≤ n) :
    (atOwner s l).answerRead l sq staged g n offset maximum (some body) =
      replied s l (freshLease (s.row l)) (frame sq 0xA0
        ([0x00, flagBit0 staged] ++ be32 g ++ be16 (BitVec.ofNat 16 n) ++ (body.drop offset.toNat).take maximum.toNat)) := by
  unfold State.answerRead
  rw [if_neg (Nat.not_lt.2 h)]
  exact answer_atOwner .read .ok (readFields staged g n (readSlice body offset maximum))

theorem answerRead_fault {staged : Bool} {g : Word} {n : Nat} (h : offset.toNat ≤ n) :
    (atOwner s l).answerRead l sq staged g n offset maximum none =
      replied s l (freshLease (s.row l)) (frame sq 0xA0 [0x60, flagBit0 staged, 0, 0, 0, 0, 0, 0]) := by
  unfold State.answerRead
  rw [if_neg (Nat.not_lt.2 h)]
  exact refuseRead_atOwner staged .mediaFault

/-! ### The committed view (R21) -/

theorem find_some {d : List DirEntry} {e : DirEntry} (h : Directory.find d key = some e) : e ∈ d ∧ e.key = key :=
  ⟨List.mem_of_find?_eq_some h, by simpa using List.find?_some h⟩

theorem readCommitted_live {e : DirEntry} {cls : RecClass} {n : Nat} (hf : Directory.find s.directory key = some e)
    (hb : e.body = .live cls n) :
    s.readCommitted l sq key offset maximum = s.answerRead l sq false e.generation n offset maximum (s.readBody e) := by
  unfold State.readCommitted
  rw [hf]
  dsimp only
  rw [hb]

theorem readCommitted_notLive (h : ∀ e ∈ s.directory, e.key = key → e.body = .deleted) :
    s.readCommitted l sq key offset maximum = s.refuseRead l sq false .notFound := by
  unfold State.readCommitted
  split
  · rename_i e hf
    obtain ⟨hmem, hkey⟩ := find_some hf
    rw [h e hmem hkey]
  · rfl

/-- Settles O13: by what the read path gives at the entry's location. -/
theorem readCommittedView : Obligations.ReadCommittedView := by
  intro l sq maximum key offset e cls n s hp hm hk0 hkF hx1 hx2 hns hf hb image
  obtain ⟨-, rfl⟩ := find_some hf
  have hread : exec (.read l sq e.key offset maximum) s =
      .next ((atOwner s l).answerRead l sq false e.generation n offset maximum (s.readBody e)) := by
    rw [exec_read hp, requestRead_committed (s := atOwner s l) hm (keyInRange_iff.2 ⟨hk0, hkF⟩) (maximum_good hx1 hx2)
      (stagedView_atOwner.trans (stagedView_none hns)), readCommitted_live (s := atOwner s l) hf hb]
    rfl
  rw [hread]
  refine ⟨fun ho c body himg => ?_, fun ho himg => ?_, fun ho => ?_⟩
  · rw [readBody_iff.2 ⟨c, himg⟩, answerRead_bytes ho]
    rfl
  · have hnone : s.readBody e = none := by
      rw [Option.eq_none_iff_forall_ne_some]
      intro body hbody
      obtain ⟨c, hc⟩ := readBody_iff.1 hbody
      exact hc.elim (himg c body).1 (himg c body).2
    rw [hnone, answerRead_fault ho]
    rfl
  · rw [answerRead_beyond ho]

/-! ### The staged view (R22) -/

theorem readStaged_put {e : StagedEntry} {cls : RecClass} {x : Option Word} {body : List Byte} {n : Nat} (h : e.op = .put cls x body n) :
    s.readStaged l sq e offset maximum =
      s.answerRead l sq true (((Directory.live s.directory e.key).map fun p => p.2.generation).getD 0) body.length offset maximum
        (some body) := by
  unfold State.readStaged
  rw [h]

theorem readStaged_delete {e : StagedEntry} {x : Option Word} (h : e.op = .delete x) :
    s.readStaged l sq e offset maximum = s.refuseRead l sq true .notFound := by
  unfold State.readStaged
  rw [h]

theorem readStaged_add_counter {e : StagedEntry} {delta : Word} {d : DirEntry} (h : e.op = .add delta)
    (hl : Directory.live s.directory e.key = some (.counter, d)) :
    s.readStaged l sq e offset maximum =
      s.answerRead l sq true d.generation 4 offset maximum ((s.readCounter e.key).map fun v => be32 (saturatingAdd v delta).1) := by
  unfold State.readStaged
  rw [h]
  dsimp only
  rw [hl]

theorem readStaged_add_class {e : StagedEntry} {delta : Word} {c : RecClass} {d : DirEntry} (h : e.op = .add delta)
    (hl : Directory.live s.directory e.key = some (c, d)) (hc : c ≠ .counter) :
    s.readStaged l sq e offset maximum = s.refuseRead l sq true .classMismatch := by
  unfold State.readStaged
  rw [h]
  dsimp only
  rw [hl]
  cases c with
  | counter => exact absurd rfl hc
  | _ => rfl

theorem readStaged_add_none {e : StagedEntry} {delta : Word} (h : e.op = .add delta) (hl : Directory.live s.directory e.key = none) :
    s.readStaged l sq e offset maximum = s.refuseRead l sq true .notFound := by
  unfold State.readStaged
  rw [h]
  dsimp only
  rw [hl]

/-- R102: what the read path has to give for the value of a LIVE counter. -/
theorem readCounter_iff_of_live {d : DirEntry} {cls : RecClass} (hl : Directory.live s.directory key = some (cls, d)) (v : Word) :
    s.readCounter key = some v ↔ ∃ a b c z, v = a ++ b ++ c ++ z ∧
      (readImage s.array.mem d.location.sector d.location.unit = .valid (.record .counter key [a, b, c, z] d.generation) ∨
        readImage s.array.mem d.location.sector d.location.unit = .valid (.copyRecord .counter key [a, b, c, z] d.generation)) := by
  rw [← counterReads_iff]
  unfold CounterReads
  rw [hl]
  simp only [Option.some.injEq, Prod.mk.injEq]
  constructor
  · rintro ⟨_, _, a, b, c, z, ⟨rfl, rfl⟩, hv, himg⟩
    exact ⟨a, b, c, z, hv, himg⟩
  · rintro ⟨a, b, c, z, hv, himg⟩
    exact ⟨_, _, a, b, c, z, ⟨rfl, rfl⟩, hv, himg⟩

/-- Settles O14: by the operation of the staged entry, and for an ADD by the LIVE entry. -/
theorem readStagedView : Obligations.ReadStagedView := by
  intro l sq maximum key offset e s hp hm hk0 hkF hx1 hx2 ho hf answered
  obtain ⟨-, rfl⟩ := findStaged_some hf
  have hread : exec (.read l sq e.key offset maximum) s = .next ((atOwner s l).readStaged l sq e offset maximum) := by
    rw [exec_read hp, requestRead_staged (s := atOwner s l) hm (keyInRange_iff.2 ⟨hk0, hkF⟩) (maximum_good hx1 hx2)
      (stagedView_atOwner.trans (stagedView_some ho hf))]
  have answers : ∀ body, (atOwner s l).readStaged l sq e offset maximum = replied s l (freshLease (s.row l)) (frame sq 0xA0 body) →
      answered body := fun body h => hread.trans (congrArg _ h)
  refine ⟨fun cls x body n hop => ⟨fun hoff => answers _ ?_, fun hoff => answers _ ?_⟩, fun x hop => answers _ ?_, fun delta hop =>
    ⟨fun d hl => ⟨fun hoff a b c z himg => answers _ ?_, fun hoff himg => answers _ ?_, fun hoff => answers _ ?_⟩,
      fun c d hl hc => answers _ ?_, fun hl => answers _ ?_⟩⟩
  · rw [readStaged_put hop, answerRead_bytes hoff]; rfl
  · rw [readStaged_put hop, answerRead_beyond hoff]; rfl
  · rw [readStaged_delete hop, refuseRead_atOwner]; rfl
  · have hv : (atOwner s l).readCounter e.key = some (a ++ b ++ c ++ z) := (readCounter_iff_of_live hl _).2 ⟨a, b, c, z, rfl, himg⟩
    rw [readStaged_add_counter (s := atOwner s l) hop hl, hv, Option.map_some, answerRead_bytes hoff, saturatingAdd_eq]
    rfl
  · have hv : (atOwner s l).readCounter e.key = none := by
      rw [Option.eq_none_iff_forall_ne_some]
      intro v hv
      obtain ⟨a, b, c, z, -, h⟩ := (readCounter_iff_of_live hl v).1 hv
      exact h.elim (himg a b c z).1 (himg a b c z).2
    rw [readStaged_add_counter (s := atOwner s l) hop hl, hv, Option.map_none, answerRead_fault hoff]
    rfl
  · rw [readStaged_add_counter (s := atOwner s l) hop hl, answerRead_beyond hoff]; rfl
  · rw [readStaged_add_class (s := atOwner s l) hop hl hc, refuseRead_atOwner]; rfl
  · rw [readStaged_add_none (s := atOwner s l) hop hl, refuseRead_atOwner]; rfl

/-! ### The refusals of READ (R20) -/

theorem modeRefusal_notReady {m : StoreMode} (h : m = .mounting ∨ m = .formatting) : modeRefusal m = some .notReady := by
  rcases h with rfl | rfl <;> rfl

/-- Settles O15: the checks in their order. -/
theorem readRefusedInOrder : Obligations.ReadRefusedInOrder := by
  intro l sq maximum key offset s hp badKey badMaximum
  rw [exec_read hp]
  refine ⟨fun hm => congrArg _ ?_, fun hm hk => congrArg _ ?_, fun hm hk hx => congrArg _ ?_, fun hm hk hx hns hd => congrArg _ ?_⟩
  · unfold requestRead
    rw [show modeRefusal (atOwner s l).mount.mode = some .notReady from modeRefusal_notReady hm]
    exact refuse_atOwner .read .notReady
  · unfold requestRead
    rw [modeRefusal_answers (m := (atOwner s l).mount.mode) hm]
    dsimp only
    rw [keyInRange_false_iff.2 hk, if_pos (by decide)]
    exact refuse_atOwner .read .badKey
  · unfold requestRead
    rw [modeRefusal_answers (m := (atOwner s l).mount.mode) hm]
    dsimp only
    rw [keyInRange_iff.2 (not_or.1 hk), if_neg (by decide), if_pos hx]
    exact refuse_atOwner .read .badValue
  · rw [requestRead_committed (s := atOwner s l) hm (keyInRange_iff.2 (not_or.1 hk)) hx (stagedView_atOwner.trans (stagedView_none hns)),
      readCommitted_notLive (s := atOwner s l) hd, refuseRead_clear]
    rfl

/-! ### LIST (R23) -/

theorem exec_list {start : Key} {count : Byte} (h : PassesFree s l sq) :
    exec (.list l sq start count) s = .next (requestList l sq start count (atOwner s l)) :=
  congrArg Host.Outcome.next (takeRequest_free h .list (requestList l sq start count))

/-- Settles O16: the two checks, then the page. -/
theorem listAnswersPage : Obligations.ListAnswersPage := by
  intro l sq count start s hp hm badKey badCount found page
  rw [exec_list hp]
  have hmode : modeRefusal (atOwner s l).mount.mode = none := modeRefusal_answers hm
  unfold requestList
  rw [hmode]
  dsimp only
  refine ⟨fun hk => congrArg _ ?_, fun hk hc => congrArg _ ?_, fun hk hc => congrArg _ ?_⟩
  · rw [keyInRange_false_iff.2 hk, if_pos (by decide)]
    exact refuse_atOwner .list .badKey
  · rw [keyInRange_iff.2 (not_or.1 hk), if_neg (by decide), if_pos hc]
    exact refuse_atOwner .list .badValue
  · rw [keyInRange_iff.2 (not_or.1 hk), if_neg (by decide), if_neg hc]
    exact answer_atOwner .list .ok _

end Sys2Proof.Proofs
end

section
/-!
PROOFS. The checks of a change against the directory (R2, R71, R91 to R94): one lemma per outcome of each check.
-/

namespace Sys2Proof.Proofs

open Sys2Proof.Machine Sys2Proof.Safety Sys2Proof.Laws

variable {d : List DirEntry} {p : Privilege} {key : Key} {names : Option RecClass} {isAdd : Bool}

theorem live_iff {cls : RecClass} {e : DirEntry} :
    Directory.live d key = some (cls, e) ↔ Directory.find d key = some e ∧ ∃ n, e.body = .live cls n := by
  unfold Directory.live
  cases Directory.find d key with
  | none => simp
  | some x =>
    dsimp only
    cases hb : x.body with
    | live c n =>
      simp only [Option.some.injEq, Prod.mk.injEq]
      constructor
      · rintro ⟨rfl, rfl⟩; exact ⟨rfl, n, hb⟩
      · rintro ⟨rfl, m, hm⟩; rw [hb] at hm; cases hm; exact ⟨rfl, rfl⟩
    | deleted =>
      refine ⟨nofun, ?_⟩
      rintro ⟨⟨⟩, m, hm⟩
      rw [hb] at hm
      cases hm

/-! ### Privilege, class, ONCE (R71, R93) -/

/-- The class of the key's LIVE entry. -/
def liveClass (d : List DirEntry) (key : Key) : Option RecClass :=
  (Directory.live d key).map Prod.fst

/-- R71: a WRITE session that names SERVICE or ONCE, or meets a LIVE SERVICE record. -/
def PrivilegeFails (d : List DirEntry) (p : Privilege) (key : Key) (names : Option RecClass) : Prop :=
  p = .write ∧ (names = some .service ∨ names = some .once ∨ liveClass d key = some .service)

/-- R71: a LIVE class other than ONCE that is not the named one, or is not COUNTER for an ADD. -/
def ClassFails (d : List DirEntry) (key : Key) (names : Option RecClass) (isAdd : Bool) : Prop :=
  ∃ c, liveClass d key = some c ∧ c ≠ .once ∧ ((∃ n, names = some n ∧ n ≠ c) ∨ (isAdd = true ∧ c ≠ .counter))

theorem names_needService : names.any RecClass.needsService = true ↔ names = some .service ∨ names = some .once := by
  cases names with
  | none => simp
  | some c => cases c <;> simp [RecClass.needsService]

theorem privilegeFails_iff : PrivilegeFails d p key names ↔
    p = .write ∧ (names.any RecClass.needsService = true ∨ (Directory.live d key).map Prod.fst = some .service) := by
  rw [names_needService, or_assoc]
  rfl

theorem changeCheck_notPermitted (h : PrivilegeFails d p key names) : changeCheck d p key names isAdd = some .notPermitted := by
  unfold changeCheck
  exact if_pos (privilegeFails_iff.1 h)

theorem changeCheck_notLive (h : ¬ PrivilegeFails d p key names) (hl : liveClass d key = none) :
    changeCheck d p key names isAdd = none := by
  unfold changeCheck
  dsimp only
  rw [if_neg (mt privilegeFails_iff.2 h), show (Directory.live d key).map Prod.fst = none from hl]

theorem changeCheck_onceViolation (h : ¬ PrivilegeFails d p key names) (hl : liveClass d key = some .once) :
    changeCheck d p key names isAdd = some .onceViolation := by
  unfold changeCheck
  dsimp only
  rw [if_neg (mt privilegeFails_iff.2 h), show (Directory.live d key).map Prod.fst = some .once from hl]

theorem names_differ {c : RecClass} : names.any (· != c) = true ↔ ∃ n, names = some n ∧ n ≠ c := by
  cases names <;> simp

/-- A LIVE class other than ONCE: the check for it. -/
theorem changeCheck_live {c : RecClass} (h : ¬ PrivilegeFails d p key names) (hl : liveClass d key = some c) (hc : c ≠ .once) :
    changeCheck d p key names isAdd =
      if names.any (· != c) then some .classMismatch else if isAdd ∧ c ≠ .counter then some .classMismatch else none := by
  unfold changeCheck
  dsimp only
  rw [if_neg (mt privilegeFails_iff.2 h), show (Directory.live d key).map Prod.fst = some c from hl]
  cases c with
  | once => exact absurd rfl hc
  | _ => rfl

theorem changeCheck_classMismatch (h : ¬ PrivilegeFails d p key names) (hf : ClassFails d key names isAdd) :
    changeCheck d p key names isAdd = some .classMismatch := by
  obtain ⟨c, hl, hc, hf⟩ := hf
  rw [changeCheck_live h hl hc]
  rcases hf with hn | ha
  · rw [if_pos (names_differ.2 hn)]
  · rw [if_pos ha, ite_self]

theorem changeCheck_passes (h : ¬ PrivilegeFails d p key names) (hf : ¬ ClassFails d key names isAdd)
    (ho : liveClass d key ≠ some .once) : changeCheck d p key names isAdd = none := by
  cases hl : liveClass d key with
  | none => exact changeCheck_notLive h hl
  | some c =>
    have hc : c ≠ .once := fun e => ho (by rw [hl, e])
    rw [changeCheck_live h hl hc, if_neg fun hn => hf ⟨c, hl, hc, .inl (names_differ.1 hn)⟩, if_neg fun ha => hf ⟨c, hl, hc, .inr ha⟩]

/-! ### Expected generation and presence (R92, R93) -/

theorem expectedCheck_live {cls : RecClass} {e : DirEntry} (hl : Directory.live d key = some (cls, e)) (g : Word) :
    expectedCheck d key (some g) = if g = 0 then some .exists else if e.generation = g then none else some .conflict := by
  unfold expectedCheck
  dsimp only
  rw [hl]

theorem expectedCheck_notLive (hl : Directory.live d key = none) (g : Word) :
    expectedCheck d key (some g) = if g = 0 then none else some .conflict := by
  unfold expectedCheck
  dsimp only
  rw [hl]

theorem presenceCheck_eq (d : List DirEntry) (key : Key) :
    presenceCheck d key = if Directory.live d key = none then some .notFound else none := by
  unfold presenceCheck
  cases Directory.live d key <;> simp

/-! ### The list of a job (R91, R94) -/

theorem firstFailing_none_iff (l : List StagedEntry) : firstFailing d p l = none ↔ ∀ e ∈ l, entryCheck d p e = none := by
  induction l with
  | nil => simp [firstFailing]
  | cons e l ih =>
    rw [firstFailing, List.forall_mem_cons]
    cases entryCheck d p e with
    | none => simp [ih]
    | some r => simp

theorem firstFailing_append {before after : List StagedEntry} {e : StagedEntry} {r : Result}
    (hb : ∀ x ∈ before, entryCheck d p x = none) (he : entryCheck d p e = some r) :
    firstFailing d p (before ++ e :: after) = some (r, e.key) := by
  induction before with
  | nil => rw [List.nil_append, firstFailing, he]
  | cons x l ih =>
    obtain ⟨hx, hl⟩ := List.forall_mem_cons.1 hb
    rw [List.cons_append, firstFailing, hx]
    exact ih hl

theorem find_none_iff : Directory.find d key = none ↔ d.all (fun x => x.key != key) = true := by
  simp [Directory.find, List.find?_eq_none]

/-- R94: the new keys are those of the PUT entries that no entry of the directory has. -/
theorem newKeys_eq (d : List DirEntry) (l : List StagedEntry) :
    newKeys d l = (l.filter fun e => (e.op.code == 0) && d.all fun x => x.key != e.key).map StagedEntry.key := by
  unfold newKeys
  induction l with
  | nil => rfl
  | cons e l ih =>
    rw [List.filterMap_cons, List.filter_cons, ih]
    cases ho : e.op with
    | put c x b n =>
      cases hf : Directory.find d e.key with
      | none => simp [StagedOp.code, find_none_iff.1 hf]
      | some x =>
        have hall : d.all (fun x => x.key != e.key) = false := by
          rw [← Bool.not_eq_true, ← find_none_iff, hf]
          exact nofun
        simp [StagedOp.code, hall]
    | delete x => simp [StagedOp.code]
    | add n => simp [StagedOp.code]

theorem dirFullKey_eq (d : List DirEntry) (l : List StagedEntry) :
    dirFullKey d l =
      ((l.filter fun e => (e.op.code == 0) && d.all fun x => x.key != e.key).map StagedEntry.key)[384 - d.length]? := by
  unfold dirFullKey
  rw [newKeys_eq]
  rfl

/-- Settles O17: the outcomes of each check, in its order. -/
theorem changeChecksInOrder : Obligations.ChangeChecksInOrder := by
  refine ⟨fun d key cls e => live_iff, fun d p key names isAdd _ => ⟨fun h => changeCheck_notPermitted h,
      fun h hf => changeCheck_classMismatch h hf, fun h ho => changeCheck_onceViolation h ho,
      fun h hf ho => changeCheck_passes h hf ho⟩,
    fun d key => ⟨rfl, fun hl => ⟨?_, fun g hg => ?_⟩, fun cls e hl => ⟨?_, fun g hg => ?_⟩⟩,
    fun d p key => ⟨fun _ _ _ _ => rfl, fun x => ?_, fun delta => ?_⟩,
    fun d p list => ⟨firstFailing_none_iff list, ?_, dirFullKey_eq d list⟩⟩
  · rw [expectedCheck_notLive hl, if_pos rfl]
  · rw [expectedCheck_notLive hl, if_neg hg]
  · rw [expectedCheck_live hl, if_pos rfl]
  · rw [expectedCheck_live hl, if_neg hg]
    simp only [eq_comm]
  · rw [← presenceCheck_eq]; rfl
  · rw [← presenceCheck_eq]; rfl
  · rintro before e after r rfl hb he
    exact firstFailing_append hb he

end Sys2Proof.Proofs
end

section
/-!
PROOFS. ADD (R78, R79): the checks before it, what staging an entry answers, and the branches by the key's staged entry.
-/

namespace Sys2Proof.Proofs

open Sys2Proof.Machine Sys2Proof.Safety Sys2Proof.Laws

variable {s : State} {l : Link} {sq : Byte} {key : Key} {delta : Word} {p : Privilege}

/-! ### The checks and the reply of a staging request -/

/-- R70: the common checks pass. -/
theorem stagingRefusal_none (hm : s.mount.mode = .ready) (ho : OpenWith (s.row l) p) (hp : p ≠ .read) (hk : keyInRange key = true) :
    stagingRefusal s l (some key) = none := by
  obtain ⟨hst, horph, hpriv⟩ := ho
  unfold stagingRefusal
  simp [hm, stagingModeRefusal, SessionRow.holdsSession, hst, horph, hpriv, hp, hk]

/-- R66, R183: an entry staged, and the counts after it. -/
theorem stageEntry_atOwner (kind : ReqKind) (e : StagedEntry) (saturated : Bool) :
    (atOwner s l).stageEntry l sq kind e saturated =
      replied s l { freshLease (s.row l) with staging := stage (s.row l).staging e } (frame sq (replyKind kind.code)
        (0x00 :: poolReply (s.setRow l { freshLease (s.row l) with staging := stage (s.row l).staging e }) l (flagBit0 saturated))) := by
  unfold State.stageEntry State.answerPool State.setStaging
  rw [atOwner_row_self, freshLease_staging, answer_setRow, atOwner_setRow]
  rfl

theorem stage_new {q : List StagedEntry} {e : StagedEntry} (h : findStaged q e.key = none) : stage q e = q ++ [e] := by
  unfold stage
  rw [h]

theorem stage_replaced {q : List StagedEntry} {e x : StagedEntry} (h : findStaged q e.key = some x) :
    stage q e = q.map fun x => if x.key = e.key then e else x := by
  unfold stage
  rw [h]

/-- R72: a new entry without body bytes is refused for want of a slot alone. -/
theorem roomRefused_new : roomRefused s l true 0 0 = true ↔ 16 ≤ (s.row l).staging.length ∨ s.poolFreeSlots = 0 := by
  simp only [roomRefused, Bool.true_and, Nat.not_lt_zero, decide_false, Bool.or_false, Bool.or_eq_true, decide_eq_true_eq, beq_iff_eq]
  exact Iff.rfl

/-- R78: a sum of two deltas, where it is a 32-bit signed number. -/
theorem sumDeltas_some {a b : Word} (h : -2147483648 ≤ a.toInt + b.toInt ∧ a.toInt + b.toInt ≤ 2147483647) :
    sumDeltas a b = some (BitVec.ofInt 32 (a.toInt + b.toInt)) :=
  if_pos h

theorem sumDeltas_none {a b : Word} (h : a.toInt + b.toInt < -2147483648 ∨ 2147483647 < a.toInt + b.toInt) : sumDeltas a b = none :=
  if_neg (by omega)

/-! ### ADD by the staged entry of the key -/

/-- The operation staged for the key. -/
def stagedOp (s : State) (l : Link) (key : Key) : Option StagedOp :=
  (findStaged (s.row l).staging key).map StagedEntry.op

section

variable (hr : stagingRefusal s l (some key) = none)
include hr

theorem requestAdd_new (h : stagedOp s l key = none) : requestAdd l sq key delta s = addNew l sq key delta s := by
  unfold requestAdd
  rw [hr]
  dsimp only
  rw [show (findStaged (s.row l).staging key).map StagedEntry.op = none from h]

theorem requestAdd_add {d : Word} (h : stagedOp s l key = some (.add d)) :
    requestAdd l sq key delta s = addToAdd l sq key d delta s := by
  unfold requestAdd
  rw [hr]
  dsimp only
  rw [show (findStaged (s.row l).staging key).map StagedEntry.op = some (.add d) from h]

theorem requestAdd_counter {x : Option Word} {body : List Byte} {n : Nat} (h : stagedOp s l key = some (.put .counter x body n)) :
    requestAdd l sq key delta s = addToPut l sq key x body delta s := by
  unfold requestAdd
  rw [hr]
  dsimp only
  rw [show (findStaged (s.row l).staging key).map StagedEntry.op = some (.put .counter x body n) from h]
  exact if_pos rfl

theorem requestAdd_class {c : RecClass} {x : Option Word} {body : List Byte} {n : Nat} (h : stagedOp s l key = some (.put c x body n))
    (hc : c ≠ .counter) : requestAdd l sq key delta s = s.refuse l sq .add .classMismatch := by
  unfold requestAdd
  rw [hr]
  dsimp only
  rw [show (findStaged (s.row l).staging key).map StagedEntry.op = some (.put c x body n) from h]
  exact if_neg hc

theorem requestAdd_delete {x : Option Word} (h : stagedOp s l key = some (.delete x)) :
    requestAdd l sq key delta s = s.refuse l sq .add .notFound := by
  unfold requestAdd
  rw [hr]
  dsimp only
  rw [show (findStaged (s.row l).staging key).map StagedEntry.op = some (.delete x) from h]

end

/-! ### What each branch answers -/

theorem addNew_refused {x : Result} (h : changeCheck s.directory (s.privilegeOf l) key none true = some x) :
    addNew l sq key delta s = s.refuse l sq .add x := by
  unfold addNew
  rw [h]

theorem addToAdd_refused {d : Word} {x : Result} (h : changeCheck s.directory (s.privilegeOf l) key none true = some x) :
    addToAdd l sq key d delta s = s.refuse l sq .add x := by
  unfold addToAdd
  rw [h]

theorem addNew_noRoom (h : changeCheck s.directory (s.privilegeOf l) key none true = none)
    (hr : 16 ≤ (s.row l).staging.length ∨ s.poolFreeSlots = 0) : addNew l sq key delta s = s.refuse l sq .add .noRoom := by
  unfold addNew
  rw [h]
  exact if_pos (roomRefused_new.2 hr)

theorem addNew_staged (h : changeCheck s.directory (s.privilegeOf l) key none true = none)
    (hr : (s.row l).staging.length < 16 ∧ 1 ≤ s.poolFreeSlots) :
    addNew l sq key delta s = s.stageEntry l sq .add { key := key, op := .add delta } false := by
  unfold addNew
  rw [h]
  exact if_neg fun hx => by have := roomRefused_new.1 hx; omega

theorem addToAdd_sum {d x : Word} (h : changeCheck s.directory (s.privilegeOf l) key none true = none) (hs : sumDeltas d delta = some x) :
    addToAdd l sq key d delta s = s.stageEntry l sq .add { key := key, op := .add x } false := by
  unfold addToAdd
  rw [h]
  dsimp only
  rw [hs]

theorem addToAdd_beyond {d : Word} (h : changeCheck s.directory (s.privilegeOf l) key none true = none) (hs : sumDeltas d delta = none) :
    addToAdd l sq key d delta s = s.refuse l sq .add .badValue := by
  unfold addToAdd
  rw [h]
  dsimp only
  rw [hs]

theorem addToPut_refused {x : Option Word} {body : List Byte} {r : Result}
    (h : changeCheck s.directory (s.privilegeOf l) key (some .counter) false = some r) :
    addToPut l sq key x body delta s = s.refuse l sq .add r := by
  unfold addToPut
  rw [h]

/-- The number that four bytes spell is below 2^32. -/
theorem bytesToNat_lt {body : List Byte} (h : body.length = 4) : bytesToNat body < 4294967296 := by
  obtain ⟨a, b, c, d, rfl⟩ : ∃ a b c d, body = [a, b, c, d] := by
    match body, h with
    | [a, b, c, d], _ => exact ⟨a, b, c, d, rfl⟩
  simp only [bytesToNat, List.foldl_cons, List.foldl_nil]
  have ha := a.isLt
  have hb := b.isLt
  have hc := c.isLt
  have hd := d.isLt
  omega

theorem addToPut_staged {x : Option Word} {body : List Byte} (hb : body.length = 4)
    (h : changeCheck s.directory (s.privilegeOf l) key (some .counter) false = none) :
    addToPut l sq key x body delta s = s.stageEntry l sq .add
      { key := key, op := .put .counter x (be32 (BitVec.ofInt 32 (max 0 (min 4294967295 ((bytesToNat body : Int) + delta.toInt))))) 0 }
      (decide ((bytesToNat body : Int) + delta.toInt < 0 ∨ 4294967295 < (bytesToNat body : Int) + delta.toInt)) := by
  have hv : (BitVec.ofNat 32 (bytesToNat body)).toNat = bytesToNat body := by
    rw [BitVec.toNat_ofNat, Nat.mod_eq_of_lt (bytesToNat_lt hb)]
  unfold addToPut
  rw [h]
  dsimp only
  rw [saturatingAdd_eq, hv]

/-- Settles O20: the branches of ADD by the key's staged entry. -/
theorem addStagesDelta : Obligations.AddStagesDelta := by
  intro l sq key delta p s hp hm ho hpr hk0 hkF r old with' answers ok refused
  have hexec : exec (.add l sq key delta) s = .next (requestAdd l sq key delta (atOwner s l)) :=
    congrArg Host.Outcome.next (takeRequest_free hp .add (requestAdd l sq key delta))
  have ho' : OpenWith ((atOwner s l).row l) p := by
    rw [atOwner_row_self]
    exact ⟨(freshLease_state _).trans ho.1, (freshLease_orphaned _).trans ho.2.1, (freshLease_privilege _).trans ho.2.2⟩
  have hr : stagingRefusal (atOwner s l) l (some key) = none := stagingRefusal_none hm ho' hpr (keyInRange_iff.2 ⟨hk0, hkF⟩)
  have hpo : (atOwner s l).privilegeOf l = p := by
    unfold State.privilegeOf
    rw [ho'.2.2]
    rfl
  have hfind : findStaged (s.row l).staging key = old := by
    show _ = findStaged (freshLease (s.row l)).staging key
    rw [freshLease_staging]
  have hop : stagedOp (atOwner s l) l key = old.map StagedEntry.op := by
    unfold stagedOp
    rw [atOwner_row_self, freshLease_staging, hfind]
  have hrs : r.staging = (s.row l).staging := freshLease_staging _
  have hanswers : ∀ t, requestAdd l sq key delta (atOwner s l) = t → answers t := fun t h => hexec.trans (congrArg _ h)
  have hrefuses : ∀ x : Result, requestAdd l sq key delta (atOwner s l) = (atOwner s l).refuse l sq .add x → refused x.code :=
    fun x h => hanswers _ (h.trans (refuse_atOwner .add x))
  have hreplaces : ∀ (op : StagedOp) (b : Bool) (e : StagedEntry), old = some e →
      requestAdd l sq key delta (atOwner s l) = (atOwner s l).stageEntry l sq .add { key := key, op := op } b →
      answers (ok (with' op) (flagBit0 b)) := fun op b e he h => by
    refine hanswers _ (h.trans ?_)
    rw [stageEntry_atOwner, stage_replaced (hfind.trans he), ← hrs]
    rfl
  rw [← hpo]
  refine ⟨?_, fun hn hc => ⟨fun hroom => ?_, fun hroom => ?_⟩, fun d hd hc => ⟨fun hsum => ?_, fun hsum => ?_⟩,
    fun x body n hput hb => ⟨fun e hc => ?_, fun hc => ?_⟩, fun c x body n hput hcls => ?_, fun x hdel => ?_⟩
  · rintro (hn | ⟨d, hd⟩) x hc
    · exact hrefuses x ((requestAdd_new hr (by rw [hop, hn]; rfl)).trans (addNew_refused hc))
    · exact hrefuses x ((requestAdd_add hr (by rw [hop, hd]; rfl)).trans (addToAdd_refused hc))
  · refine hanswers _ ?_
    rw [requestAdd_new hr (by rw [hop, hn]; rfl), addNew_staged hc (by rw [atOwner_row_self, poolFreeSlots_atOwner]; exact hroom),
      stageEntry_atOwner, stage_new (hfind.trans hn), ← hrs]
    rfl
  · refine hrefuses .noRoom ?_
    rw [requestAdd_new hr (by rw [hop, hn]; rfl), addNew_noRoom hc (by rw [atOwner_row_self, poolFreeSlots_atOwner]; exact hroom)]
  · exact hreplaces _ false _ hd ((requestAdd_add hr (by rw [hop, hd]; rfl)).trans (addToAdd_sum hc (sumDeltas_some hsum)))
  · exact hrefuses .badValue ((requestAdd_add hr (by rw [hop, hd]; rfl)).trans (addToAdd_beyond hc (sumDeltas_none hsum)))
  · exact hrefuses e ((requestAdd_counter hr (by rw [hop, hput]; rfl)).trans (addToPut_refused hc))
  · intro sum
    have h := hreplaces _ _ _ hput ((requestAdd_counter hr (by rw [hop, hput]; rfl)).trans (addToPut_staged hb hc))
    by_cases hsat : sum < 0 ∨ 4294967295 < sum
    · rw [if_pos hsat]
      rwa [decide_eq_true hsat] at h
    · rw [if_neg hsat]
      rwa [decide_eq_false hsat] at h
  · exact hrefuses .classMismatch (requestAdd_class hr (by rw [hop, hput]; rfl) hcls)
  · exact hrefuses .notFound (requestAdd_delete hr (by rw [hop, hdel]; rfl))

end Sys2Proof.Proofs
end

section
/-!
PROOFS. The apply of an image (R12), the erase phase from its grant to the erased sector (R17, R26, R33, R41, R118, R131, R132), and the start
values (R137).
-/

namespace Sys2Proof.Proofs

open Sys2Proof.Machine Sys2Proof.Safety Sys2Proof.Laws

variable {s : State} {key : Key} {body : EntryBody} {g : Word} {loc : Location}

/-! ### The apply of an image (R12, R14, R15) -/

theorem counted_iff (x : SectorState) : x.counted = true ↔ x = .active ∨ x = .full ∨ x = .victim := by
  cases x <;> simp [SectorState.counted]

theorem takeImage_created (h : Directory.find s.directory key = none) : s.takeImage key body g loc =
    s.setDirectory (Directory.put s.directory
      { key := key, body := body, generation := g, location := loc, stale := 0, dropPending := false }) := by
  unfold State.takeImage
  rw [h]

/-- R12: the superseded image lies in an ACTIVE, FULL or VICTIM sector. -/
theorem takeImage_counted {e : DirEntry} (h : Directory.find s.directory key = some e)
    (hc : (s.sec e.location.sector).state.counted = true) : s.takeImage key body g loc =
    (s.addWaste e.location.sector e.body.units).setDirectory (Directory.put s.directory
      { key := key, body := body, generation := g, location := loc, stale := e.stale + 1, dropPending := false }) := by
  unfold State.takeImage State.supersede
  rw [h]
  dsimp only
  rw [if_pos hc, ← (find_some h).2]
  rfl

/-- R12: it lies in a sector of another state. -/
theorem takeImage_uncounted {e : DirEntry} (h : Directory.find s.directory key = some e)
    (hc : ¬ (s.sec e.location.sector).state.counted = true) : s.takeImage key body g loc =
    s.setDirectory (Directory.put s.directory
      { key := key, body := body, generation := g, location := loc, stale := e.stale, dropPending := false }) := by
  unfold State.takeImage State.supersede
  rw [h]
  dsimp only
  rw [if_neg hc, ← (find_some h).2]

/-- Whatever the key had, one entry of the key is put into the directory. -/
theorem takeImage_puts (s : State) (key : Key) (body : EntryBody) (g : Word) (loc : Location) :
    ∃ x : DirEntry, x.key = key ∧ (s.takeImage key body g loc).directory = Directory.put s.directory x := by
  cases h : Directory.find s.directory key with
  | none => exact ⟨_, rfl, by rw [takeImage_created h]; rfl⟩
  | some e =>
    by_cases hc : (s.sec e.location.sector).state.counted = true
    · exact ⟨_, rfl, by rw [takeImage_counted h hc]; rfl⟩
    · exact ⟨_, rfl, by rw [takeImage_uncounted h hc]; rfl⟩

/-- Settles O31: no entry of the key, a superseded image that counts, and one that does not. -/
theorem applyTakesImage : Obligations.ApplyTakesImage := by
  intro key body g loc s t
  refine ⟨fun k hk => ?_, fun h => ?_, fun e h => ?_⟩
  · obtain ⟨x, hx, hd⟩ := takeImage_puts s key body g loc
    rw [show t.directory = _ from hd]
    exact find_put_other _ x k (hx ▸ hk)
  · rw [show t = _ from takeImage_created h]
    exact ⟨rfl, find_put_self _ _⟩
  · intro old counted size
    by_cases hc : old.state.counted = true
    · have hc' : counted := (counted_iff _).1 hc
      rw [show t = _ from takeImage_counted h hc, if_pos hc', if_pos hc']
      refine ⟨find_put_self _ _, ?_⟩
      have hsize : e.body.units = size := by
        show e.body.units = match e.body with
          | .live _ n => 1 + (n + 15) / 16
          | .deleted => 1
        cases e.body <;> rfl
      rw [hsize]
      rfl
    · have hc' : ¬ counted := mt (counted_iff _).2 hc
      rw [show t = _ from takeImage_uncounted h hc, if_neg hc', if_neg hc']
      exact ⟨find_put_self _ _, rfl⟩

/-! ### The erase phase (R131 to R133) -/

/-- R17, R131: the state that the grant of the erase claim leaves before the victim is looked at. -/
def eraseGranted (s : State) (i : Sector) : State :=
  ((s.setTenancy .erase).removeDropped i).setReclaimState .erasing

theorem grantErase_eq (s : State) (i : Sector) : s.grantErase i =
    if (s.sec i).retirePending = true then cycleEnded (withoutJoins ((eraseGranted s i).retire i .retirePending) i)
    else if 100000 ≤ (s.sec i).eraseCount then cycleEnded (withoutJoins ((eraseGranted s i).retire i .worn) i)
    else ((eraseGranted s i).setSec i { s.sec i with state := .erasing }).startOp (.erase i) := by
  have hworn : ((eraseGranted s i).worn i = true) = (100000 ≤ (s.sec i).eraseCount) := propext decide_eq_true_iff
  simp only [← endErasePhase_eq, ← hworn]
  rfl

/-- R33, R41: an erase step that ends DONE. -/
theorem eraseStepDone_eq (s : State) (i : Sector) : s.eraseStepDone i =
    (((s.raiseEraseCount i).setMem (s.array.mem.filter fun c => decide (c.1 < i.val * 4096) || decide (i.val * 4096 + 4096 ≤ c.1))).startOp
      (.eraseRecord i)) := by
  unfold State.eraseStepDone
  rw [raiseEraseCount_eq, raiseEraseCount_eq]
  by_cases h : (s.sec i).eraseCount = 89999
  · rw [if_pos h, if_pos (by exact h)]
    rfl
  · rw [if_neg h, if_neg (by exact h)]
    rfl

theorem exec_eraseComplete {i : Sector} {outcome : OpOutcome} (hr : s.running = true) (ho : s.array.op = some (.erase i)) :
    exec (.eraseComplete outcome) s = .next (s.eraseEnds i outcome).settle := by
  show execEraseComplete outcome s = _
  unfold execEraseComplete
  rw [hr, ho]

theorem exec_eraseRecordComplete {i : Sector} {outcome : OpOutcome} (hr : s.running = true) (ho : s.array.op = some (.eraseRecord i)) :
    exec (.eraseRecordComplete outcome) s = .next (s.eraseRecordEnds i outcome).settle := by
  show execEraseRecordComplete outcome s = _
  unfold execEraseRecordComplete
  rw [hr, ho]

/-- Settles O34: the grant, the end of the erase step, and the end of the erase record's program. -/
theorem eraseGrantedAndDone : Obligations.EraseGrantedAndDone := by
  intro i s
  refine ⟨?_, fun hr ht ho => ?_, fun hr ho ht => ?_⟩
  · intro granted
    refine ⟨fun hp => ?_, fun hp hw => ?_, fun hp hw => ?_⟩
    · rw [grantErase_eq, if_pos hp]
      rfl
    · rw [grantErase_eq, if_neg (by simp [hp]), if_pos hw]
      rfl
    · rw [grantErase_eq, if_neg (by simp [hp]), if_neg (by omega)]
      rfl
  · intro counted told
    have hends : s.eraseEnds i .done = s.eraseStepDone i := rfl
    rw [exec_eraseComplete hr ho, hends, eraseStepDone_eq, raiseEraseCount_eq]
    exact congrArg _ (State.settle_held (by rw [← raiseEraseCount_eq]; simpa using ht))
  · have hends : s.eraseRecordEnds i .done = (s.eraseRecordDone i).endErasePhase i := by
      show (s.eraseRecordDone i).sectorTaken i true = _
      unfold State.sectorTaken
      rw [show (s.eraseRecordDone i).array.tenancy = .erase from ht]
    rw [exec_eraseRecordComplete hr ho, hends, endErasePhase_eq, eraseRecordDone_eq]

/-! ### The start values (R137) -/

theorem started_sec (cause : StartCause) (pins : Pins) (mem : List Host.Cell) (pending : List Instr) (n : Nat) (i : Sector) :
    (State.started cause pins mem pending n).sec i = SectorRow.start :=
  Vector.getElem_replicate _

/-- Settles O51: each start value is the start state's own. -/
theorem startValues : Obligations.StartValues := by
  intro cause pins mem pending n t asserted
  have hrow : ∀ l, t.row l = .none := fun l => by cases l <;> rfl
  have hlink : ∀ l, t.link l = .start (pins.rxSpace.get l) := fun l => by cases l <;> rfl
  have hnotices : ∀ l, t.noticeQueue l = .start := fun l => by cases l <;> rfl
  refine ⟨fun l => ?_, rfl, rfl, rfl, rfl, rfl, fun i => started_sec cause pins mem pending n i, rfl, rfl, rfl, rfl, rfl, rfl, rfl, rfl, rfl,
    rfl, rfl, rfl, hnotices, fun l => ?_, rfl, rfl, rfl, rfl, show StartFlags.none.byte = 0 by decide, rfl, rfl⟩
  · rw [hrow]
    exact ⟨rfl, rfl, rfl, rfl⟩
  · rw [hlink]
    exact ⟨rfl, rfl, rfl, rfl, rfl, rfl, rfl, rfl, rfl⟩

end Sys2Proof.Proofs
end

section
/-!
PROOFS. The ends of COPY programs and of the move phase (R11, R16, R32, R122, R125, R127 to R130, R134).
-/

namespace Sys2Proof.Proofs

open Sys2Proof.Machine Sys2Proof.Safety Sys2Proof.Laws

variable {s : State} {img : Image} {loc : Location} {ok : Bool} {v : Sector} {outcome : OpOutcome}

/-! ### The directory's updates as maps -/

/-- An update that keeps keys is a map over the entries of the key. -/
theorem update_eq_map {d : List DirEntry} {k : Key} {f : DirEntry → DirEntry} (hf : ∀ e, (f e).key = e.key) :
    Directory.update d k f = d.map fun e => if e.key = k then f e else e := by
  unfold Directory.update
  refine List.map_congr_left fun e _ => ?_
  by_cases h : e.key = k
  · rw [if_pos h, if_pos h, ← h, ← hf e]
  · rw [if_neg h, if_neg h]

theorem relocate_eq (s : State) (k : Key) (loc : Location) :
    s.relocate k loc = s.setDirectory (s.directory.map fun e => if e.key = k then { e with location := loc } else e) :=
  congrArg s.setDirectory (update_eq_map fun _ => rfl)

/-- R11: a release lowers a count only where it does not fall below 0. -/
theorem releaseOne_eq (s : State) (x : TallyItem) : s.releaseOne x =
    s.setDirectory (s.directory.map fun e => if e.key = x.key ∧ x.count ≤ e.stale then { e with stale := e.stale - x.count } else e) := by
  refine congrArg s.setDirectory ((update_eq_map fun e => by split <;> rfl).trans (List.map_congr_left fun e _ => ?_))
  by_cases hk : e.key = x.key
  · simp only [hk, if_true, true_and]
  · simp only [hk, if_false, false_and]

theorem release_directory (s : State) (l : List TallyItem) : (s.release l).directory =
    l.foldl (fun d x => d.map fun e => if e.key = x.key ∧ x.count ≤ e.stale then { e with stale := e.stale - x.count } else e)
      s.directory := by
  unfold State.release
  induction l generalizing s with
  | nil => rfl
  | cons x l ih => rw [List.foldl_cons, List.foldl_cons, ih, releaseOne_eq]; rfl

theorem setSec_sec_same (s : State) (i : Sector) : s.setSec i (s.sec i) = s := by
  unfold State.setSec State.sec
  rw [Vector.set_getElem_self]
  rfl

/-- R130: the relocated originals of the victim, counted stale. -/
theorem countStale_foldl (v : Sector) (l : List KeyedPlace) (s : State) : l.foldl (fun t p => t.countStale v p) s =
    (s.setSec v { s.sec v with waste := (s.sec v).waste + (l.map fun p => p.place.size).sum }).setDirectory
      (l.foldl (fun d p => d.map fun e => if e.key = p.key then { e with stale := e.stale + 1 } else e) s.directory) := by
  induction l generalizing s with
  | nil => exact (congrArg (fun u : State => u.setDirectory s.directory) (setSec_sec_same s v)).symm
  | cons p l ih =>
    have hp : s.countStale v p =
        (s.setDirectory (s.directory.map fun e => if e.key = p.key then { e with stale := e.stale + 1 } else e)).setSec v
          { s.sec v with waste := (s.sec v).waste + p.place.size } :=
      congrArg (s.addWaste v p.place.size).setDirectory (update_eq_map fun _ => rfl)
    rw [List.foldl_cons, ih, hp, State.setSec_setSec, State.setSec_sec_self, List.map_cons, List.sum_cons, ← Nat.add_assoc]
    rfl

/-! ### A failed program (R32, R129) -/

theorem failedSpan_frame (s : State) (img : Image) (loc : Location) (ok : Bool) :
    (failedSpan s img loc ok).mount = s.mount ∧ (failedSpan s img loc ok).reclaim = s.reclaim ∧
      (failedSpan s img loc ok).array.tenancy = s.array.tenancy ∧ (failedSpan s img loc ok).stopped = s.stopped := by
  unfold failedSpan State.scribble
  cases ok <;> simp [State.stopped]

theorem closeRetirePending_eq (s : State) (i : Sector) : s.closeRetirePending i =
    s.setSec i { s.sec i with
      state := .full, waste := (s.sec i).waste + (256 - (s.sec i).nextFree), nextFree := 256, retirePending := true } := by
  unfold State.closeRetirePending State.setRetirePending State.closeSector
  rw [State.setSec_setSec, State.setSec_sec_self]
  rfl

theorem thirdFailure_eq (s : State) (i : Sector) : s.thirdFailure i =
    if (s.sec i).state = .active then
      s.setSec i { s.sec i with
        state := .full, waste := (s.sec i).waste + (256 - (s.sec i).nextFree), nextFree := 256, retirePending := true }
    else s.setSec i { s.sec i with retirePending := true } := by
  unfold State.thirdFailure
  rw [closeRetirePending_eq]
  rfl

theorem placeCopy_placed {t : State} (h : Placed s img t) : s.placeCopy v img = t := by
  unfold State.placeCopy
  rw [(place_iff s t img).2 h]

/-! ### COPY programs under tenancy MOVE (R16, R125, R129, R134) -/

theorem exec_programComplete (hr : s.running = true) (ho : s.array.op = some (.image img loc)) :
    exec (.programComplete outcome ok) s = .next (s.imageEnds img loc outcome ok).settle := by
  show execProgramComplete outcome ok s = _
  unfold execProgramComplete
  rw [hr, ho]

/-- A COPY's program ended: the four ways on. -/
theorem imageEnds_move (ht : s.array.tenancy = .move) (hv : s.reclaim.victim = some v) : s.imageEnds img loc outcome ok =
    if outcome = .done then
      if s.stopped then (s.imageDone img loc).copyDoneStopped img loc else (s.imageDone img loc).copyDone v img loc
    else if s.stopped then (failedSpan s img loc ok).moveStops else (failedSpan s img loc ok).copyFailed v img loc.sector := by
  unfold State.imageEnds
  rw [ht]
  dsimp only
  rw [hv]
  dsimp only
  rw [imageFailed_eq, (failedSpan_frame s img loc ok).2.2.2]
  rfl

/-- R125: the state from which the walk goes on after a COPY, said of the state with the copy programmed. -/
theorem copyDone_eq (s : State) (v : Sector) (img : Image) (loc : Location) : s.copyDone v img loc =
    State.walk v 257 ((s.relocate (img.key?.getD 0) loc).setReclaim { s.reclaim with
      relocated := s.reclaim.relocated ++
        [{ key := img.key?.getD 0, place := { location := { sector := v, unit := s.reclaim.walkUnit }, size := img.units } }]
      copyFailures := 0, walkUnit := s.reclaim.walkUnit + img.units }) := rfl

/-- R129: fewer than 2 failures before. -/
theorem copyFailed_again {i : Sector} (h : s.reclaim.copyFailures < 2) : s.copyFailed v img i =
    (s.setReclaim { s.reclaim with copyFailures := s.reclaim.copyFailures + 1 }).placeCopy v img :=
  if_pos (show s.reclaim.copyFailures + 1 ≤ 2 by omega)

theorem copyFailed_third {i : Sector} (h : 2 ≤ s.reclaim.copyFailures) : s.copyFailed v img i =
    ((s.setReclaim { s.reclaim with copyFailures := s.reclaim.copyFailures + 1 }).thirdFailure i).moveEndsEarly v false :=
  if_neg (show ¬ s.reclaim.copyFailures + 1 ≤ 2 by omega)

/-! ### The ends of the phase (R122, R127, R128, R130) -/

theorem isPredecessor_iff {span : Vector (Option Sector) 48} : isPredecessor span v = true ↔ ∃ k : Sector, span[k.val] = some v := by
  simp [isPredecessor, allSectors]

/-- R127: the tally at the end of the walk. -/
theorem closeTally_some (joined : Bool) (o : OpenTxn) (tally : List TallyItem) :
    closeTally joined (some o) tally = if joined then o.images.foldl (fun y p => addTally y p.key) tally else tally := rfl

/-- R128: the normal end, in terms of the tally. -/
theorem victimMoved_eq (s : State) (v : Sector) : s.victimMoved v =
    (((s.setSec v { s.sec v with state := .moved, waste := (s.sec v).nextFree - 2 }).setDirectory
      ((closeTally (isPredecessor s.reclaim.span v) s.reclaim.openTxn s.reclaim.tally).foldl
        (fun d x => d.map fun e => if e.key = x.key ∧ x.count ≤ e.stale then { e with stale := e.stale - x.count } else e)
        s.directory)).setReclaim { s.reclaim with state := .claimErase, openTxn := none, tally := [], relocated := [] }).setTenancy .none := by
  unfold State.victimMoved
  dsimp only
  rw [State.release_eq, release_directory]
  rfl

/-- R130: the early end. -/
theorem moveEndsEarly_eq (s : State) (v : Sector) (readFault : Bool) : s.moveEndsEarly v readFault =
    cycleEnded (((s.setSec v { s.sec v with
        state := .full, nextFree := 256, waste := (s.sec v).waste + (s.reclaim.relocated.map fun p => p.place.size).sum }).setDirectory
      ((s.reclaim.relocated.foldl (fun d p => d.map fun e => if e.key = p.key then { e with stale := e.stale + 1 } else e)
        s.directory).map fun e => if e.location.sector = v then { e with dropPending := false } else e)).setReclaim
      { s.reclaim with barred := if readFault then s.reclaim.barred ++ [v] else s.reclaim.barred }) := by
  unfold State.moveEndsEarly
  dsimp only
  rw [endCycle_restated, countStale_foldl, State.setSec_setSec, State.setSec_sec_self]
  cases readFault <;> rfl

/-- R117, R122: a waiting head that a forced cycle was for ends with STORE-FULL. -/
theorem noCycle_waiting {rotation : Nat} {j : CommitJob} {others : List CommitJob} (hq : s.commit.queue = j :: others)
    (hf : s.reclaim.forced = true) (hw : j.state = .waitingSpace) : s.noCycle rotation =
    jobEnded (s.setReclaim { s.reclaim with state := .idle, forced := false, requested := false, rotation := rotation }) j 0x52 0 0
      false := by
  unfold State.noCycle
  dsimp only [State.setReclaim_commit]
  rw [hq]
  dsimp only
  rw [if_pos (by simp [hf, hw]), endJob_setTenancy]
  rfl

theorem noCycle_unforced {rotation : Nat} (h : s.reclaim.forced = false ∨ s.headWaiting = false) : s.noCycle rotation =
    (s.setReclaim { s.reclaim with state := .idle, forced := false, requested := false, rotation := rotation }).setTenancy .none := by
  unfold State.noCycle
  dsimp only [State.setReclaim_commit]
  unfold State.headWaiting at h
  cases hq : s.commit.queue with
  | nil => rfl
  | cons j others =>
    rw [hq] at h
    dsimp only at h ⊢
    rw [if_neg]
    rcases h with h | h <;> simp [h]

/-- Settles O50: the ends of a COPY's program, then of the phase, and a grant without a cycle. -/
theorem movePhaseEnds : Obligations.MovePhaseEnds := by
  refine ⟨fun img loc v outcome ok s hr ht ho hv => ?_, fun v s => ?_, fun v readFault s => moveEndsEarly_eq s v readFault,
    fun rotation s => ⟨fun j others hq hf hw => noCycle_waiting hq hf hw, fun h => noCycle_unforced h⟩⟩
  · obtain ⟨-, hreclaim, hten, -⟩ := failedSpan_frame s img loc ok
    intro key programmed relocated failed i again marked
    have hrel : (s.imageDone img loc).relocate key loc = relocated := (relocate_eq _ _ _).trans (by rw [imageDone_eq]; rfl)
    refine ⟨fun hs => ?_, fun hs => ?_, fun hs hd => ?_, fun hs hd hf t hp => ?_, fun hs hd hf => ?_⟩
    all_goals rw [exec_programComplete hr ho, imageEnds_move ht hv, hs]
    · rw [if_pos rfl, if_neg (by decide), copyDone_eq]
      show Host.Outcome.next (State.walk v 257 (((s.imageDone img loc).relocate key loc).setReclaim _)).settle = _
      rw [hrel]
      rfl
    · rw [if_pos rfl, if_pos rfl]
      show Host.Outcome.next (((s.imageDone img loc).relocate key loc).moveStops).settle = _
      rw [hrel]
      rfl
    · rw [if_neg hd, if_pos rfl]
      rfl
    · have hagain : (failedSpan s img loc ok).copyFailed v img loc.sector = t := by
        rw [copyFailed_again (by rw [hreclaim]; exact hf), hreclaim]
        exact placeCopy_placed hp
      rw [if_neg hd, if_neg (by decide), hagain, settle_placed hp (by rw [show again.array.tenancy = _ from hten, ht]; decide)]
    · rw [if_neg hd, if_neg (by decide), copyFailed_third (by rw [hreclaim]; exact hf), hreclaim, thirdFailure_eq]
  · intro joined tally released
    have htally : closeTally (isPredecessor s.reclaim.span v) s.reclaim.openTxn s.reclaim.tally = tally := by
      show _ = match s.reclaim.openTxn with
        | some o =>
          if joined then o.images.foldl (fun (y : List TallyItem) (p : KeyedPlace) => addTally y p.key) s.reclaim.tally
          else s.reclaim.tally
        | none => s.reclaim.tally
      cases s.reclaim.openTxn with
      | none => rfl
      | some o =>
        rw [closeTally_some]
        by_cases hj : isPredecessor s.reclaim.span v = true
        · exact (if_pos hj).trans (if_pos (isPredecessor_iff.1 hj)).symm
        · exact (if_neg hj).trans (if_neg (mt isPredecessor_iff.2 hj)).symm
    rw [victimMoved_eq, htally]

end Sys2Proof.Proofs
end

section
/-!
PROOFS. REPLAY (R18, R141 to R144, R146): what an image does, the offer of an image, the walk of a sector, and the sectors after the walk.
-/

namespace Sys2Proof.Proofs

open Sys2Proof.Machine Sys2Proof.Safety Sys2Proof.Laws

/-! ### What an image does to the replay (R141, R142) -/

section

variable {r : Replay} {img : Image} {loc : Location} {p : PendingTxn} {n : Word} {count : Nat}

theorem listed_some (h : r.pending = some p) : listed r = p.images := by
  unfold listed
  rw [h]

theorem listed_none (h : r.pending = none) : listed r = [] := by
  unfold listed
  rw [h]

theorem drop_none (h : r.pending = none) : r.drop = r := by
  unfold Replay.drop
  rw [h]

/-- R142: a RECORD or VOID of a broken number. -/
theorem commitImage_broken (h : img.number ∈ r.broken) : r.commitImage img loc =
    { r with part := withDead r.part (listed r ++ [(img, loc)]), pending := none } := by
  unfold Replay.commitImage
  dsimp only
  rw [if_pos (by simpa using h), drop_eq, dead_eq, withDead_append]

/-- R142: one of the pending number, up to the 16th. -/
theorem commitImage_listed (hb : img.number ∉ r.broken) (hp : r.pending = some p) (hn : p.number = img.number)
    (hl : p.images.length < 16) : r.commitImage img loc =
    { r with pending := some { number := img.number, images := p.images ++ [(img, loc)] } } := by
  unfold Replay.commitImage
  dsimp only
  rw [if_neg (by simpa using hb), hp]
  dsimp only
  rw [if_pos hn, if_pos hl, hn]

/-- R142: the 17th breaks the transaction. -/
theorem commitImage_breaks (hb : img.number ∉ r.broken) (hp : r.pending = some p) (hn : p.number = img.number)
    (hl : 16 ≤ p.images.length) : r.commitImage img loc =
    { r with part := withDead r.part (p.images ++ [(img, loc)]), pending := none, broken := img.number :: r.broken } := by
  unfold Replay.commitImage
  dsimp only
  rw [if_neg (by simpa using hb), hp]
  dsimp only
  rw [if_pos hn, if_neg (Nat.not_lt.2 hl), drop_eq, dead_eq, withDead_append, listed_some hp]

/-- R142: one of another number begins a list, the old one dead. -/
theorem commitImage_begins (hb : img.number ∉ r.broken) (hp : ∀ p, r.pending = some p → p.number ≠ img.number) :
    r.commitImage img loc =
      { r with part := withDead r.part (listed r), pending := some { number := img.number, images := [(img, loc)] } } := by
  unfold Replay.commitImage
  dsimp only
  rw [if_neg (by simpa using hb)]
  cases h : r.pending with
  | none =>
    rw [listed_none h]
    rfl
  | some q =>
    dsimp only
    rw [if_neg (hp q h), drop_eq]

/-- R142: a MARK of the pending number whose count covers the list. -/
theorem mark_whole (hp : r.pending = some p) (hn : p.number = n) (hl : p.images.length ≤ count) : r.mark n count loc =
    { r with
      part := withJoins (p.images.foldl (fun u x => u.offer x.1 x.2) r.part) (p.images.map (fun x => x.2.sector) ++ [loc.sector])
      pending := none } := by
  unfold Replay.mark
  rw [hp]
  dsimp only
  rw [if_pos ⟨hn, hl⟩, withJoins_eq]

/-- R142: another MARK leaves the list dead. -/
theorem mark_other (h : ∀ p, r.pending = some p → p.number = n → count < p.images.length) : r.mark n count loc = r.drop := by
  unfold Replay.mark
  cases hp : r.pending with
  | none => exact (drop_none hp).symm
  | some q => exact if_neg fun hx => by have := h q hp hx.1; omega

end

/-- R141: a RECORD or a VOID, its number seen. -/
theorem image_commit (r : Replay) {img : Image} (loc : Location)
    (h : (∃ cls key body g, img = .record cls key body g) ∨ ∃ key g, img = .void key g) :
    r.image img loc = (r.see img.number).commitImage img loc := by
  rcases h with ⟨cls, key, body, g, rfl⟩ | ⟨key, g, rfl⟩ <;> rfl

/-- R141: a COPY, its number seen. -/
theorem image_copy (r : Replay) {img : Image} (loc : Location)
    (h : (∃ cls key body g, img = .copyRecord cls key body g) ∨ ∃ key g, img = .copyVoid key g) :
    r.image img loc = { (r.see img.number).drop with part := (r.see img.number).drop.part.offer img loc } := by
  rcases h with ⟨cls, key, body, g, rfl⟩ | ⟨key, g, rfl⟩ <;> rfl

/-! ### The offer of an image (R18) -/

section

variable {s : State} {img : Image} {key : Key} {body : EntryBody} {loc : Location} (hk : img.key? = some key)
  (hb : img.entryBody? = some body)
include hk hb

theorem offer_new (hf : Directory.find s.directory key = none) (h : s.directory.length < 384) :
    s.offer img loc = s.takeImage key body img.number loc := by
  unfold State.offer
  rw [hk, hb]
  dsimp only
  rw [hf]
  exact if_pos h

theorem offer_noPlace (hf : Directory.find s.directory key = none) (h : 384 ≤ s.directory.length) :
    s.offer img loc = s.addWaste loc.sector img.units := by
  unfold State.offer
  rw [hk, hb]
  dsimp only
  rw [hf]
  exact if_neg (Nat.not_lt.2 h)

theorem offer_supersedes {e : DirEntry} (hf : Directory.find s.directory key = some e) (h : e.generation.toNat ≤ img.number.toNat) :
    s.offer img loc = s.takeImage key body img.number loc := by
  unfold State.offer
  rw [hk, hb]
  dsimp only
  rw [hf]
  exact if_pos h

theorem offer_stale {e : DirEntry} (hf : Directory.find s.directory key = some e) (h : img.number.toNat < e.generation.toNat) :
    s.offer img loc = (s.addWaste loc.sector img.units).setDirectory
      (s.directory.map fun x => if x.key = key then { x with stale := x.stale + 1 } else x) := by
  unfold State.offer
  rw [hk, hb]
  dsimp only
  rw [hf]
  exact (if_neg (Nat.not_le.2 h)).trans (congrArg _ (update_eq_map fun _ => rfl))

end

/-! ### The walk of a sector (R141, R143) -/

section

variable {r : Replay} {i : Sector} {n u : Nat}

theorem sector_end (hu : 256 ≤ u) : Replay.sector i (n + 1) u r = r.leave i 256 :=
  if_pos hu

/-- Within the sector what the read path gives at the unit decides. -/
theorem sector_valid {img : Image} (hu : u < 256) (h : readImage r.part.array.mem i u = .valid img) :
    Replay.sector i (n + 1) u r = Replay.sector i n (u + img.units) (r.image img { sector := i, unit := u }) := by
  rw [Replay.sector, if_neg (show ¬ Config.sectorUnits ≤ u from Nat.not_le.2 hu), h]

theorem sector_fill (hu : u < 256) (h : readImage r.part.array.mem i u = .fill) :
    Replay.sector i (n + 1) u r = Replay.sector i n (u + 1) { r with part := r.part.addWaste i 1 } := by
  rw [Replay.sector, if_neg (show ¬ Config.sectorUnits ≤ u from Nat.not_le.2 hu), h]

theorem sector_blank (hu : u < 256) (h : readImage r.part.array.mem i u = .blank) : Replay.sector i (n + 1) u r = r.leave i u := by
  rw [Replay.sector, if_neg (show ¬ Config.sectorUnits ≤ u from Nat.not_le.2 hu), h]

theorem sector_invalid (hu : u < 256) (h : readImage r.part.array.mem i u = .invalid) : Replay.sector i (n + 1) u r = r.tear i u := by
  rw [Replay.sector, if_neg (show ¬ Config.sectorUnits ≤ u from Nat.not_le.2 hu), h]

end

/-! ### The sectors after the walk (R143, R146) -/

section

variable {s : State} {i k : Sector}

theorem finishLatest_full (h : 256 ≤ (s.sec i).nextFree) : s.finishLatest i = (s, false) :=
  if_pos h

theorem finishLatest_blank (h : (s.sec i).nextFree < 256) (hb : blankFrom s.array.mem i (s.sec i).nextFree = true) :
    s.finishLatest i = (s.setSecState i .active, false) :=
  (if_neg (Nat.not_le.2 h)).trans (if_pos hb)

theorem finishLatest_torn (h : (s.sec i).nextFree < 256) (hb : ¬ blankFrom s.array.mem i (s.sec i).nextFree = true) :
    s.finishLatest i = (s.deadTail i, true) :=
  (if_neg (Nat.not_le.2 h)).trans (if_neg hb)

/-- R143: of the rows at most the sector's own changes, and nothing beside the rows. -/
theorem finishLatest_table (s : State) (i : Sector) : ∃ row, (s.finishLatest i).1 = s.setSec i row := by
  by_cases h : 256 ≤ (s.sec i).nextFree
  · exact ⟨s.sec i, by rw [finishLatest_full h, setSec_sec_same]⟩
  · by_cases hb : blankFrom s.array.mem i (s.sec i).nextFree = true
    · exact ⟨_, by rw [finishLatest_blank (Nat.not_le.1 h) hb]; rfl⟩
    · exact ⟨_, by rw [finishLatest_torn (Nat.not_le.1 h) hb]; rfl⟩

/-- R143: the IN-USE sector of the highest sequence. -/
def latestSector (s : State) : Option Sector :=
  s.replaySectors.find? fun i => s.sequenceOf i == s.mount.scan.highestSeq.toNat

/-- The part after the walk with every other walked sector closed. -/
def othersClosed (s : State) : State :=
  (s.replaySectors.filter fun i => latestSector s != some i).foldl State.deadTail (replayOf s s.replaySectors).part

/-- Then the latest sector opened or closed, and whether its tail was torn. -/
def latestFinished (s : State) : State × Bool :=
  match latestSector s with
  | some i => (othersClosed s).finishLatest i
  | none => (othersClosed s, false)

theorem scanReplay_eq (s : State) : s.scanReplay =
    (((latestFinished s).1.setNextTxn ((replayOf s s.replaySectors).highest + 1)).setNextSeq (s.mount.scan.highestSeq + 1)).setMount
      { (latestFinished s).1.mount with
        phase := .repair
        flags := { (latestFinished s).1.mount.flags with torn := (replayOf s s.replaySectors).torn || (latestFinished s).2 }
        scan := { (latestFinished s).1.mount.scan with highestTxn := (replayOf s s.replaySectors).highest } } := rfl

theorem mem_replaySectors : k ∈ s.replaySectors ↔ (s.sec k).state = .full :=
  mem_sectorsIn

theorem latestSector_some (h : latestSector s = some i) : i ∈ s.replaySectors ∧ s.sequenceOf i = s.mount.scan.highestSeq.toNat :=
  ⟨List.mem_of_find?_eq_some h, by simpa using List.find?_some h⟩

/-- The one walked sector of the highest sequence. -/
theorem latestSector_unique (hk : k ∈ s.replaySectors) (hs : s.sequenceOf k = s.mount.scan.highestSeq.toNat)
    (hu : ∀ x ∈ s.replaySectors, s.sequenceOf x = s.mount.scan.highestSeq.toNat → x = k) : latestSector s = some k := by
  cases h : latestSector s with
  | none => exact absurd (by simpa using hs) (List.find?_eq_none.1 h k hk)
  | some i =>
    obtain ⟨hi, hsi⟩ := latestSector_some h
    rw [hu i hi hsi]

theorem othersClosed_sec (s : State) (k : Sector) : (othersClosed s).sec k =
    if k ∈ s.replaySectors ∧ latestSector s ≠ some k then closedRow ((replayOf s s.replaySectors).part.sec k)
    else (replayOf s s.replaySectors).part.sec k := by
  unfold othersClosed
  rw [deadTails_sec]
  simp [List.mem_filter]

/-- The closing of the walked sectors changes rows alone. -/
theorem latestFinished_table (s : State) : ∃ x, (latestFinished s).1 = (replayOf s s.replaySectors).part.setTable x := by
  obtain ⟨x, hx⟩ := deadTails_table (s.replaySectors.filter fun i => latestSector s != some i) (replayOf s s.replaySectors).part
  unfold latestFinished
  cases latestSector s with
  | none => exact ⟨x, hx⟩
  | some i =>
    obtain ⟨row, hrow⟩ := finishLatest_table (othersClosed s) i
    refine ⟨x.set i.val row i.isLt, hrow.trans ?_⟩
    rw [show othersClosed s = _ from hx]
    rfl

/-- Every sector but the latest is as the closing has left it. -/
theorem latestFinished_sec_other (h : latestSector s ≠ some k) : (latestFinished s).1.sec k = (othersClosed s).sec k := by
  unfold latestFinished
  cases hl : latestSector s with
  | none => rfl
  | some i =>
    obtain ⟨row, hrow⟩ := finishLatest_table (othersClosed s) i
    dsimp only
    rw [hrow, State.setSec_sec, if_neg fun e => h (by rw [hl, e])]

/-- The latest sector is finished as the walk has left it, over the bytes that the scan found. -/
theorem latestFinished_latest (h : latestSector s = some k) : latestFinished s = (othersClosed s).finishLatest k ∧
    (othersClosed s).sec k = (replayOf s s.replaySectors).part.sec k ∧ (othersClosed s).array.mem = s.array.mem := by
  refine ⟨by unfold latestFinished; rw [h], by rw [othersClosed_sec, if_neg fun hx => hx.2 h], ?_⟩
  obtain ⟨x, hx⟩ := deadTails_table (s.replaySectors.filter fun i => latestSector s != some i) (replayOf s s.replaySectors).part
  rw [show othersClosed s = _ from hx]
  exact replayOf_bytes s _

theorem scanReplay_sec (s : State) (k : Sector) : s.scanReplay.sec k = (latestFinished s).1.sec k := by
  rw [scanReplay_eq, State.setMount_sec, State.setNextSeq_sec, State.setNextTxn_sec]

theorem scanReplay_torn (s : State) :
    s.scanReplay.mount.flags.torn = ((replayOf s s.replaySectors).torn || (latestFinished s).2) := by
  rw [scanReplay_eq, State.setMount_mount]

/-- R146, and what the closing of the sectors leaves as the walk has made it. -/
theorem scanReplay_rest (s : State) :
    s.scanReplay.directory = (replayOf s s.replaySectors).part.directory ∧
    s.scanReplay.reclaim = (replayOf s s.replaySectors).part.reclaim ∧
    s.scanReplay.commit.nextTxn = (replayOf s s.replaySectors).highest + 1 ∧
    s.scanReplay.array.nextSeq = s.mount.scan.highestSeq + 1 := by
  obtain ⟨x, hx⟩ := latestFinished_table s
  rw [scanReplay_eq, hx]
  simp

/-- R141, R142: the walk in ascending sequence, the images still listed at its end dead. -/
theorem replayOf_eq (s : State) (l : List Sector) : replayOf s l =
    ((sortBySequence s l).foldl (fun r i => Replay.sector i 257 2 r)
      { part := s, pending := none, broken := [], highest := 0, torn := false }).drop := rfl

end

/-- The walked sectors as the statements write them. -/
theorem replaySectors_eq (s : State) :
    s.replaySectors = (List.finRange 48).filter fun i => decide ((s.sec i).state = .full) := by
  exact List.filter_congr fun _ _ => rfl

/-- Settles O21: what an image does, the offer, the walk of a sector, and the sectors after the walk. -/
theorem replayTakesImages : Obligations.ReplayTakesImages := by
  refine ⟨fun r loc => ?_, fun img key body loc s hk hb => ?_, fun i n u r => ?_, fun s => ?_⟩
  · intro seen lost listed'
    have hlisted : listed r = listed' := by
      show listed r = match r.pending with
        | some p => p.images
        | none => []
      cases h : r.pending with
      | none => exact listed_none h
      | some p => exact listed_some h
    have hsee : ∀ n, r.see n = { r with highest := seen n } := see_eq r
    refine ⟨fun img hi => ?_, fun n count => ?_, fun img hi => ?_⟩
    · intro g after
      rw [image_commit r loc hi, hsee, ← hlisted]
      exact ⟨fun hb => commitImage_broken hb, fun hb => ⟨fun p hp hn =>
        ⟨fun hl => commitImage_listed hb hp hn hl, fun hl => commitImage_breaks hb hp hn hl⟩, fun hp => commitImage_begins hb hp⟩⟩
    · intro after
      have hmark : r.image (.mark n count) loc = (r.see n).mark n count loc := rfl
      rw [hmark, hsee, ← hlisted]
      exact ⟨fun p hp hn hl => mark_whole hp hn hl, fun h => (mark_other (r := { r with highest := seen n }) h).trans (drop_eq _)⟩
    · rw [image_copy r loc hi, hsee, drop_eq, ← hlisted]
      rfl
  · intro wasted
    exact ⟨fun hf => ⟨offer_new hk hb hf, offer_noPlace hk hb hf⟩, fun e hf => ⟨offer_supersedes hk hb hf, offer_stale hk hb hf⟩⟩
  · intro row ends
    refine ⟨fun hu => sector_end hu, fun hu => ?_⟩
    cases h : readImage r.part.array.mem i u with
    | valid img => exact sector_valid hu h
    | fill => exact sector_fill hu h
    | blank => exact sector_blank hu h
    | invalid => exact sector_invalid hu h
  · have hw : s.replaySectors = _ := replaySectors_eq s
    obtain ⟨hdir, hreclaim, htxn, hseq⟩ := scanReplay_rest s
    have hsec := scanReplay_sec s
    have htorn := scanReplay_torn s
    rw [← hw]
    intro walked r t H closed opens
    refine ⟨⟨sortBySequence s walked, (sortBySequence_spec s walked).1, (sortBySequence_spec s walked).2, ?_⟩, hdir, hreclaim, htxn, hseq,
      fun k hk hs => ?_, fun k hk => ?_, fun k hk hs hu => ?_⟩
    · intro last
      rw [show r = last.drop from replayOf_eq s walked, drop_eq]
      unfold listed withDead
      cases last.pending <;> rfl
    · have hl : latestSector s ≠ some k := fun h => hs (latestSector_some h).2
      rw [hsec, latestFinished_sec_other hl, othersClosed_sec, if_pos ⟨hk, hl⟩]
      rfl
    · have hl : latestSector s ≠ some k := fun h => hk (latestSector_some h).1
      rw [hsec, latestFinished_sec_other hl, othersClosed_sec, if_neg fun h => hk h.1]
    · have hl : latestSector s = some k := latestSector_unique hk hs hu
      obtain ⟨hfin, hrow, hmem⟩ := latestFinished_latest hl
      rw [hsec, htorn, hfin]
      refine ⟨fun ho => ?_, fun hf => ?_, fun hf ho => ?_⟩
      · obtain ⟨hlt, hblank⟩ := ho
        rw [finishLatest_blank (by rw [hrow]; exact hlt) (by rw [hrow, hmem]; exact hblank)]
        exact ⟨by rw [State.setSecState, State.setSec_sec_self, hrow], Bool.or_false _⟩
      · rw [finishLatest_full (by rw [hrow]; exact hf)]
        exact ⟨hrow, Bool.or_false _⟩
      · rw [finishLatest_torn (by rw [hrow]; exact hf) (by rw [hrow, hmem]; exact fun hb => ho ⟨hf, hb⟩)]
        refine ⟨?_, Bool.or_true _⟩
        rw [State.deadTail, closeSector_eq, withClosed, State.setSec_sec_self, hrow]

end Sys2Proof.Proofs
end

section
/-!
PROOFS. What every step keeps of the array: the canonical form of its bytes (R25) and the one ACTIVE sector (law 3, R39); and that a byte
written reads back.
-/

namespace Sys2Proof.Proofs

open Sys2Proof.Machine Sys2Proof.Safety Sys2Proof.Laws

variable {g : Prop} {s t : State}

/-! ### The bytes of the array (R25, R31) -/

/-- Of the moves only a block of writes and an erase touch the bytes; a start takes them as they are. -/
theorem move_keeps_arrayCanonical (m : Move g s t) (h : ArrayCanonical s) : ArrayCanonical t := by
  cases m with
  | memWrite a bs => exact Memory.writeBytes_wf h a bs
  | memErase lo hi => exact Memory.eraseRange_wf h lo hi
  | _ => exact h

/-- Settles O54: every move keeps the canonical form, so every step does. -/
theorem stepKeepsArrayCanonical : Obligations.StepKeepsArrayCanonical := fun _ _ hs h =>
  step_keeps (P := ArrayCanonical) (fun _ _ h => h) (fun _ _ m => move_keeps_arrayCanonical m) hs h

/-- Settles O53: a write, an erased range, and bytes written one after another. -/
theorem bytesReadBack : Obligations.BytesReadBack := by
  intro m h
  refine ⟨fun a b => ⟨Memory.write_wf h a b, Memory.read_write_self h a b, fun x hx => Memory.read_write_other m b hx⟩,
    fun lo hi => ⟨Memory.eraseRange_wf h lo hi, fun x hlo hhi => Memory.read_eraseRange_inside m hlo hhi,
      fun x hx => Memory.read_eraseRange_outside m hx⟩,
    fun a bs => ⟨Memory.readBytes_writeBytes h a bs, fun x hx => Memory.read_writeBytes_other m a bs hx⟩⟩

/-! ### Law 3 (R39) -/

theorem inState_setSec (s : State) (i k : Sector) (r : SectorRow) (x : SectorState) :
    (s.setSec i r).inState x k = if k = i then r.state == x else s.inState x k := by
  unfold State.inState
  rw [State.setSec_sec]
  split <;> rfl

/-- The law is kept where no sector becomes ACTIVE and no activation record's program begins. -/
theorem activeLaw_of_fewer (h : ActiveLaw s) (hact : ∀ k, t.inState .active k = true → s.inState .active k = true)
    (hop : ∀ i img, t.array.op = some (.activation i img) → s.array.op = some (.activation i img)) : ActiveLaw t := by
  obtain ⟨hone, hnone⟩ := h
  refine ⟨fun i j hi hj => hone i j (hact i hi) (hact j hj), fun i img ho j => ?_⟩
  have hj := hnone i img (hop i img ho) j
  exact Bool.eq_false_iff.2 fun ht => absurd (hact j ht) (by rw [hj]; decide)

theorem activeLaw_of_noActive (h : NoActive s) : ActiveLaw s :=
  ⟨fun i j hi _ => absurd hi (by rw [h i]; decide), fun _ _ _ j => h j⟩

/-- Where none was ACTIVE and no operation is in flight one row may become so. -/
theorem activeLaw_setSec (i : Sector) (r : SectorRow) (h : NoActive s) (ho : s.array.op = none) : ActiveLaw (s.setSec i r) := by
  have honly : ∀ k, (s.setSec i r).inState .active k = true → k = i := fun k hk => by
    rw [inState_setSec, h k] at hk
    by_cases hki : k = i
    · exact hki
    · rw [if_neg hki] at hk
      cases hk
  refine ⟨fun j k hj hk => (honly j hj).trans (honly k hk).symm, fun j img hop => ?_⟩
  rw [show (s.setSec i r).array.op = none from ho] at hop
  cases hop

/-- The one ACTIVE sector closed leaves none. -/
theorem noActive_closed {i : Sector} (h : ActiveLaw s) (ha : s.activeSector = some i) : NoActive (s.closeSector i) := by
  intro k
  have hi : s.inState .active i = true := List.find?_some ha
  unfold State.closeSector
  rw [inState_setSec]
  split
  · rfl
  · rename_i hne
    exact Bool.eq_false_iff.2 fun hk => hne (h.1 k i hk hi)

/-- A row becomes ACTIVE only where none was, and an activation begins only where none is or the one has been closed. -/
theorem move_keeps_activeLaw (m : Move True s t) (h : ActiveLaw s) : ActiveLaw t := by
  cases m with
  | sec i r hr =>
    refine activeLaw_of_fewer h (fun k hk => ?_) fun _ _ ho => ho
    rw [inState_setSec] at hk
    split at hk
    · subst k
      simpa [State.inState] using hr (by simpa using hk)
    · exact hk
  | table x hx => exact activeLaw_of_noActive fun i => by simpa [State.inState] using hx i
  | found i r hn ho => exact activeLaw_setSec i r hn ho
  | activated i img r ho => exact activeLaw_setSec (s := s.clearOp) i r (h.2 i img ho) rfl
  | activate i img hn => exact activeLaw_of_noActive (hn trivial)
  | closeActivate i k img ha => exact activeLaw_of_noActive (noActive_closed h ha)
  | startOp op hop =>
    refine activeLaw_of_fewer h (fun _ hk => hk) fun i img ho => ?_
    exact absurd (Option.some.inj ho) (hop i img)
  | clearOp => exact activeLaw_of_fewer h (fun _ hk => hk) nofun
  | started cause =>
    refine activeLaw_of_noActive fun i => ?_
    rw [State.inState, started_sec]
    rfl
  | _ => exact h

/-- Settles O57: every move keeps law 3 with its guards, so every step does. -/
theorem stepKeepsActiveLaw : Obligations.StepKeepsActiveLaw := fun _ _ hs h =>
  Moves.keeps (fun _ _ => move_keeps_activeLaw) (step_moves (fun _ => hs) h) hs

end Sys2Proof.Proofs
end

section
/-!
PROOFS. The deadline of an operation (R30), the arbiter's order (R46, R47), and the sectors chosen (R39, R120 to R123).
-/

namespace Sys2Proof.Proofs

open Sys2Proof.Machine Sys2Proof.Safety Sys2Proof.Laws

variable {s : State} {ok : Bool}

/-! ### The ends of operations as commands (R30) -/

theorem exec_activationRecordComplete {i : Sector} {img : Image} {outcome : OpOutcome} (hr : s.running = true)
    (ho : s.array.op = some (.activation i img)) :
    exec (.activationRecordComplete outcome) s = .next (s.activationEnds i img outcome).settle := by
  show execActivationRecordComplete outcome s = _
  unfold execActivationRecordComplete
  rw [hr, ho]

theorem exec_operationDeadline (hr : s.running = true) : exec (.operationDeadline ok) s = .next (s.opEnds .deadline ok) :=
  if_pos hr

/-- Settles O36: by the operation in flight. -/
theorem deadlineEndsOperation : Obligations.DeadlineEndsOperation := by
  intro ok s hr ends
  refine ⟨fun img loc ho => ⟨_, exec_programComplete hr ho, ?_⟩, fun i img ho => ⟨_, exec_activationRecordComplete hr ho, ?_⟩,
    fun i ho => ⟨_, exec_eraseComplete hr ho, ?_⟩, fun i ho => ⟨_, exec_eraseRecordComplete hr ho, ?_⟩, fun ho => ?_⟩
  all_goals
    rw [exec_operationDeadline hr]
    unfold State.opEnds
    rw [ho]

/-! ### The arbiter (R46, R47, R153) -/

theorem nextClaim_format {c : Claim} (h : s.formatClaim = some c) : s.nextClaim = some c := by
  unfold State.nextClaim
  rw [h]
  rfl

/-- R47: which of the other two claims goes first. -/
theorem nextClaim_noFormat (h : s.formatClaim = none) : s.nextClaim =
    if s.erasedCount ≤ 2 ∨ s.headWaiting = true then s.reclaimClaim.or s.commitClaim else s.commitClaim.or s.reclaimClaim := by
  have hfirst : (decide (s.erasedCount ≤ Config.reserve) || s.headWaiting) = true ↔ s.erasedCount ≤ 2 ∨ s.headWaiting = true := by
    rw [Bool.or_eq_true, decide_eq_true_eq]
    exact Iff.rfl
  unfold State.nextClaim
  rw [h, Option.none_or]
  by_cases hc : s.erasedCount ≤ 2 ∨ s.headWaiting = true
  · rw [if_pos (hfirst.2 hc), if_pos hc]
  · rw [if_neg (mt hfirst.1 hc), if_neg hc]

/-- A waiting head job claims nothing (R90, R99). -/
theorem commitClaim_waiting (h : s.headWaiting = true) : s.commitClaim = none := by
  unfold State.headWaiting at h
  unfold State.commitClaim
  cases hq : s.commit.queue with
  | nil => rfl
  | cons j others =>
    rw [hq] at h
    have hj : j.state = .waitingSpace := by simpa using h
    simp [hj]

theorem settle_granted {c : Claim} (ht : s.array.tenancy = .none) (hs : s.stopped = false) (hc : s.nextClaim = some c) :
    s.settle = (s.grant c).settleFor 511 := by
  show State.settleFor (511 + 1) s = _
  rw [State.settleFor, if_pos ⟨ht, by simp [hs]⟩, hc]

/-- Settles O38: the claims in R47's order, and the states in which nothing is granted. -/
theorem arbiterGrantsInOrder : Obligations.ArbiterGrantsInOrder := by
  intro s
  refine ⟨fun f hf => nextClaim_format hf, fun hf => ⟨fun c hc hfirst => ?_, fun c hc hmany => ?_, fun c hc hr => ?_, fun hn => ?_⟩,
    fun ht hs c hc => settle_granted ht hs hc, State.settle_unclaimed, State.settle_held,
    fun hm => State.settle_stopped (by simp [State.stopped, hm]), fun hr => State.settle_stopped (by simp [State.stopped, hr])⟩
  all_goals rw [nextClaim_noFormat hf]
  · rw [if_pos hfirst, hc, Option.some_or]
  · have hw : ¬ s.headWaiting = true := fun hw => by rw [commitClaim_waiting hw] at hc; cases hc
    rw [if_neg (not_or.2 ⟨by omega, hw⟩), hc, Option.some_or]
  · rw [hc, hr]
    split <;> rfl
  · rw [hn, Option.or_none, Option.none_or, ite_self]

/-! ### The sector to activate (R39) -/

theorem pick_leastCount (s : State) {l : List Sector} (hl : l.Pairwise (· < ·)) :
    (∀ i, pick (fun i b => decide ((s.sec i).eraseCount < (s.sec b).eraseCount)) l = some i → i ∈ l ∧ ∀ k ∈ l,
      (s.sec i).eraseCount < (s.sec k).eraseCount ∨ ((s.sec i).eraseCount = (s.sec k).eraseCount ∧ i ≤ k)) ∧
    (pick (fun i b => decide ((s.sec i).eraseCount < (s.sec b).eraseCount)) l = none → l = []) := by
  refine pick_spec _ _ (fun a b c h1 h2 => ?_) (fun a => .inr ⟨rfl, Nat.le_refl _⟩) l hl (fun a b h => ?_) (fun a b hab h => ?_)
  · rw [Fin.le_def] at h1 h2 ⊢
    omega
  · exact .inl (of_decide_eq_true h)
  · have hge := of_decide_eq_false h
    rw [Fin.le_def]
    rw [Fin.lt_def] at hab
    omega

theorem chooseErased_spec (s : State) :
    (∀ i, s.chooseErased = some i → (s.sec i).state = .erased ∧ ∀ k, (s.sec k).state = .erased →
      (s.sec i).eraseCount < (s.sec k).eraseCount ∨ ((s.sec i).eraseCount = (s.sec k).eraseCount ∧ i ≤ k)) ∧
    (s.chooseErased = none → ∀ k, (s.sec k).state ≠ .erased) := by
  obtain ⟨hsome, hnone⟩ := pick_leastCount s (l := s.sectorsIn .erased) (allSectors_sorted.filter _)
  refine ⟨fun i hi => ?_, fun hn k hk => ?_⟩
  · obtain ⟨hmem, hbest⟩ := hsome i hi
    exact ⟨mem_sectorsIn.1 hmem, fun k hk => hbest k (mem_sectorsIn.2 hk)⟩
  · have hk := mem_sectorsIn.2 hk
    rw [hnone hn] at hk
    cases hk

/-! ### The steps of R120 -/

/-- The sectors the steps choose from, in ascending number. -/
def candidates (s : State) (aside : List Sector) : List Sector :=
  s.victimCandidates.filter fun i => !aside.contains i

/-- Step 1: the first retire-pending candidate. -/
def pendingCandidate (s : State) (aside : List Sector) : Option Sector :=
  (candidates s aside).find? fun i => (s.sec i).retirePending

/-- Step 3: the candidate with the most waste. -/
def wastedCandidate (s : State) (aside : List Sector) : Option Sector :=
  pick s.moreWaste ((candidates s aside).filter fun i => decide (0 < (s.sec i).waste))

variable {aside : List Sector} {rotates : Bool} {i : Sector}

theorem pendingCandidate_some (h : pendingCandidate s aside = some i) :
    i ∈ candidates s aside ∧ (s.sec i).retirePending = true ∧
      ∀ k ∈ candidates s aside, (s.sec k).retirePending = true → i ≤ k := by
  refine ⟨List.mem_of_find?_eq_some h, by simpa using List.find?_some h, fun k hk hp => ?_⟩
  obtain ⟨-, before, after, hsplit, hbefore⟩ := List.find?_eq_some_iff_append.1 h
  have hsorted : (candidates s aside).Pairwise (· < ·) := candidates_sorted s aside
  rw [hsplit] at hk hsorted
  obtain ⟨-, htail, -⟩ := List.pairwise_append.1 hsorted
  rcases List.mem_append.1 hk with hk | hk
  · have := hbefore k hk
    simp [hp] at this
  · rcases List.mem_cons.1 hk with rfl | hk
    · exact Nat.le_refl _
    · exact Nat.le_of_lt ((List.pairwise_cons.1 htail).1 k hk)

theorem pendingCandidate_none : pendingCandidate s aside = none ↔ ∀ k ∈ candidates s aside, ¬ (s.sec k).retirePending = true :=
  List.find?_eq_none

theorem wastedCandidate_some (h : wastedCandidate s aside = some i) :
    i ∈ candidates s aside ∧ 0 < (s.sec i).waste ∧ ∀ k ∈ candidates s aside,
      (s.sec k).waste < (s.sec i).waste ∨ ((s.sec k).waste = (s.sec i).waste ∧ s.sequenceOf i ≤ s.sequenceOf k) := by
  obtain ⟨hmem, hbest⟩ := (pick_moreWaste s ((candidates_sorted s aside).filter _)).1 i h
  obtain ⟨hc, hw⟩ := List.mem_filter.1 hmem
  have hpos : 0 < (s.sec i).waste := of_decide_eq_true hw
  refine ⟨hc, hpos, fun k hk => ?_⟩
  by_cases hwk : 0 < (s.sec k).waste
  · exact hbest k (List.mem_filter.2 ⟨hk, decide_eq_true hwk⟩)
  · omega

theorem wastedCandidate_none (h : wastedCandidate s aside = none) : ∀ k ∈ candidates s aside, ¬ 0 < (s.sec k).waste := by
  have hnil := (pick_moreWaste s ((candidates_sorted s aside).filter _)).2 h
  exact fun k hk hw => by simpa using List.filter_eq_nil_iff.1 hnil k hk (decide_eq_true hw)

/-- The four steps in their order: which one decides, and what it gives. -/
theorem chooseStep_cases (s : State) (rotates : Bool) (aside : List Sector) :
    (∃ i, pendingCandidate s aside = some i ∧ s.chooseStep rotates aside = some i) ∨
    (pendingCandidate s aside = none ∧ rotates = true ∧ s.chooseStep rotates aside = pick s.lessErased (candidates s aside)) ∨
    (pendingCandidate s aside = none ∧ rotates = false ∧
      ∃ i, wastedCandidate s aside = some i ∧ s.chooseStep rotates aside = some i) ∨
    (pendingCandidate s aside = none ∧ rotates = false ∧ wastedCandidate s aside = none ∧
      s.chooseStep rotates aside = if s.reclaim.requested then pick s.lessErased (candidates s aside) else none) := by
  have hstep : s.chooseStep rotates aside = (((pendingCandidate s aside).or
      (if rotates then pick s.lessErased (candidates s aside) else none)).or (wastedCandidate s aside)).or
      (if s.reclaim.requested then pick s.lessErased (candidates s aside) else none) := rfl
  rw [hstep]
  cases hp : pendingCandidate s aside with
  | some i => exact .inl ⟨i, rfl, rfl⟩
  | none =>
    cases rotates with
    | true =>
      refine .inr (.inl ⟨rfl, rfl, ?_⟩)
      cases hl : pick s.lessErased (candidates s aside) with
      | some i => rfl
      | none =>
        have hnil : candidates s aside = [] := (pick_lessErased s (candidates_sorted s aside)).2 hl
        simp [wastedCandidate, hnil, pick]
    | false =>
      refine .inr (.inr ?_)
      cases hw : wastedCandidate s aside with
      | some i => exact .inl ⟨rfl, rfl, i, rfl, rfl⟩
      | none => exact .inr ⟨rfl, rfl, rfl, rfl⟩

theorem pick_lessErased_none : pick s.lessErased (candidates s aside) = none ↔ ∀ k, k ∉ candidates s aside := by
  refine ⟨fun h => List.eq_nil_iff_forall_not_mem.1 ((pick_lessErased s (candidates_sorted s aside)).2 h), fun h => ?_⟩
  rw [List.eq_nil_iff_forall_not_mem.2 h]
  rfl

/-- No step gives a sector. -/
theorem chooseStep_none_iff : s.chooseStep rotates aside = none ↔
    (∀ k ∈ candidates s aside, ¬ (s.sec k).retirePending = true) ∧ (∀ k ∈ candidates s aside, ¬ 0 < (s.sec k).waste) ∧
      (rotates = true ∨ s.reclaim.requested = true → ∀ k, k ∉ candidates s aside) := by
  rcases chooseStep_cases s rotates aside with ⟨i, hp, h⟩ | ⟨hp, rfl, h⟩ | ⟨hp, rfl, i, hw, h⟩ | ⟨hp, rfl, hw, h⟩
  · obtain ⟨hc, hi, -⟩ := pendingCandidate_some hp
    exact ⟨fun hn => (by rw [h] at hn; cases hn), fun hn => absurd hi (hn.1 i hc)⟩
  · rw [h, pick_lessErased_none]
    exact ⟨fun hn => ⟨pendingCandidate_none.1 hp, fun k hk => absurd hk (hn k), fun _ => hn⟩, fun hn => hn.2.2 (.inl rfl)⟩
  · obtain ⟨hc, hi, -⟩ := wastedCandidate_some hw
    exact ⟨fun hn => (by rw [h] at hn; cases hn), fun hn => absurd hi (hn.2.1 i hc)⟩
  · rw [h]
    by_cases hr : s.reclaim.requested = true
    · rw [if_pos hr, pick_lessErased_none]
      exact ⟨fun hn => ⟨pendingCandidate_none.1 hp, wastedCandidate_none hw, fun _ => hn⟩, fun hn => hn.2.2 (.inr hr)⟩
    · rw [if_neg hr]
      exact ⟨fun _ => ⟨pendingCandidate_none.1 hp, wastedCandidate_none hw, fun hn => absurd hn (by simp [hr])⟩, fun _ => rfl⟩

/-- What the sector taken is, by the step that gives it. -/
theorem chooseStep_some (h : s.chooseStep rotates aside = some i) :
    let pending := ∃ k, k ∈ candidates s aside ∧ (s.sec k).retirePending = true
    let wasted := ∃ k, k ∈ candidates s aside ∧ 0 < (s.sec k).waste
    let leastErased := ∀ k ∈ candidates s aside,
      (s.sec i).eraseCount < (s.sec k).eraseCount ∨ ((s.sec i).eraseCount = (s.sec k).eraseCount ∧ s.sequenceOf i ≤ s.sequenceOf k)
    (pending → (s.sec i).retirePending = true ∧ ∀ k ∈ candidates s aside, (s.sec k).retirePending = true → i ≤ k) ∧
    (¬ pending → rotates = true → leastErased) ∧
    (¬ pending → rotates = false → wasted → 0 < (s.sec i).waste ∧ ∀ k ∈ candidates s aside,
      (s.sec k).waste < (s.sec i).waste ∨ ((s.sec k).waste = (s.sec i).waste ∧ s.sequenceOf i ≤ s.sequenceOf k)) ∧
    (¬ pending → rotates = false → ¬ wasted → s.reclaim.requested = true ∧ leastErased) := by
  intro pending wasted leastErased
  have hleast : pick s.lessErased (candidates s aside) = some i → leastErased := fun hl =>
    ((pick_lessErased s (candidates_sorted s aside)).1 i hl).2
  have hpending : pendingCandidate s aside = none → ¬ pending := fun hp ⟨k, hk, hkp⟩ => pendingCandidate_none.1 hp k hk hkp
  rcases chooseStep_cases s rotates aside with ⟨j, hp, hj⟩ | ⟨hp, rfl, hj⟩ | ⟨hp, rfl, j, hw, hj⟩ | ⟨hp, rfl, hw, hj⟩
  all_goals rw [hj] at h
  · cases h
    obtain ⟨hc, hi, hfirst⟩ := pendingCandidate_some hp
    have hyes : pending := ⟨i, hc, hi⟩
    exact ⟨fun _ => ⟨hi, hfirst⟩, fun hn => absurd hyes hn, fun hn => absurd hyes hn, fun hn => absurd hyes hn⟩
  · exact ⟨fun hy => absurd hy (hpending hp), fun _ _ => hleast h, nofun, nofun⟩
  · cases h
    obtain ⟨hc, hi, hmost⟩ := wastedCandidate_some hw
    exact ⟨fun hy => absurd hy (hpending hp), nofun, fun _ _ _ => ⟨hi, hmost⟩, fun _ _ hn => absurd ⟨i, hc, hi⟩ hn⟩
  · have hno : ¬ wasted := fun ⟨k, hk, hkw⟩ => wastedCandidate_none hw k hk hkw
    refine ⟨fun hy => absurd hy (hpending hp), nofun, fun _ _ hy => absurd hy hno, fun _ _ _ => ?_⟩
    by_cases hr : s.reclaim.requested = true
    · exact ⟨hr, hleast (by rwa [if_pos hr] at h)⟩
    · rw [if_neg hr] at h
      cases h

/-! ### The grant of the move claim without a first victim (R122, R123) -/

theorem mayCloseActive_iff : s.mayCloseActive = true ↔
    s.headWaiting = true ∧ ∃ i, s.activeSector = some i ∧ 0 < (s.sec i).waste := by
  unfold State.mayCloseActive
  cases s.activeSector <;> simp

theorem mayCloseActive_held (t : Tenancy) : (s.setTenancy t).mayCloseActive = s.mayCloseActive := rfl

/-- R122, R123: what a choice comes to. -/
def cycleOf (s : State) (rotation : Nat) (victim : Option Sector) : State :=
  match victim with
  | some v => if s.copiesFit v then s.beginMove v (if rotation + 1 = 32 then 0 else rotation + 1) else s.noCycle rotation
  | none => s.noCycle rotation

/-- With no first victim the choice is made once more, where R122 says so with the ACTIVE sector closed. -/
theorem grantMove_again (h : (s.setTenancy .move).chooseVictim (s.reclaim.rotation + 1 == 32) 49 [] = none) :
    s.grantMove =
      let t := if s.mayCloseActive then (s.setTenancy .move).closeActive else s.setTenancy .move
      cycleOf t s.reclaim.rotation (t.chooseVictim (s.reclaim.rotation + 1 == 32) 49 []) := by
  have h' : (s.setTenancy .move).chooseVictim (s.reclaim.rotation + 1 == Config.rotation) 49 [] = none := h
  unfold State.grantMove
  simp only [h', Option.isNone_none, Bool.true_and, Option.none_or, mayCloseActive_held]
  rfl

theorem grantMove_unclosed (h : (s.setTenancy .move).chooseVictim (s.reclaim.rotation + 1 == 32) 49 [] = none)
    (hc : s.headWaiting = false ∨ ∀ i, s.activeSector = some i → (s.sec i).waste = 0) :
    s.grantMove = (s.setTenancy .move).noCycle s.reclaim.rotation := by
  have hno : ¬ s.mayCloseActive = true := by
    rw [mayCloseActive_iff]
    rintro ⟨hw, i, ha, hpos⟩
    rcases hc with hc | hc
    · rw [hc] at hw; cases hw
    · rw [hc i ha] at hpos; cases hpos
  rw [grantMove_again h, if_neg hno]
  dsimp only
  rw [h]
  rfl

theorem grantMove_closed (h : (s.setTenancy .move).chooseVictim (s.reclaim.rotation + 1 == 32) 49 [] = none)
    (hw : s.headWaiting = true) (ha : s.activeSector = some i) (hpos : 0 < (s.sec i).waste) :
    s.grantMove = cycleOf (withClosed (s.setTenancy .move) i) s.reclaim.rotation
      ((withClosed (s.setTenancy .move) i).chooseVictim (s.reclaim.rotation + 1 == 32) 49 []) := by
  rw [grantMove_again h, if_pos (mayCloseActive_iff.2 ⟨hw, i, ha, hpos⟩)]
  dsimp only
  rw [closeActive_eq (s := s.setTenancy .move) ha]

/-- R123: the room for the victim's live units. -/
theorem copiesFit_iff {v : Sector} : s.copiesFit v = true ↔ 254 - (s.sec v).waste ≤ (match s.activeSector with
    | some k => 256 - (s.sec k).nextFree
    | none => 0) + 254 * s.erasedCount := by
  unfold State.copiesFit
  rw [decide_eq_true_eq]
  rfl

/-- Settles O37: R39's choice, R120's steps, the chain and the victim of R121, and the second choice of R122. -/
theorem sectorsChosen : Obligations.SectorsChosen := by
  refine ⟨chooseErased_spec, fun s rotates aside => ?_, fun s i r h => chainRoot_of_ends h,
    fun s rotates => victimChosen_of_fuel s rotates 49 [] List.nodup_nil (Nat.le_refl _), fun s => ?_⟩
  · intro candidate leastErased pending wasted
    have hmem : ∀ k, k ∈ candidates s aside ↔ candidate k := fun _ => mem_candidates
    refine ⟨?_, fun i hi => ⟨(hmem i).1 (chooseStep_candidate hi), ?_⟩⟩
    · rw [chooseStep_none_iff]
      simp only [hmem, pending, wasted, not_exists, not_and]
    · have := chooseStep_some hi
      simp only [hmem] at this
      exact this
  · intro rotates held hnone
    refine ⟨grantMove_unclosed hnone, fun i hw ha hpos => ?_⟩
    intro closed
    have hgrant : s.grantMove = cycleOf closed s.reclaim.rotation (closed.chooseVictim rotates 49 []) := grantMove_closed hnone hw ha hpos
    refine ⟨fun hn => by rw [hgrant, hn]; rfl, fun v hv => ?_⟩
    intro free
    rw [hgrant, hv]
    exact ⟨fun hroom => if_pos (copiesFit_iff.2 hroom), fun hshort => if_neg (mt copiesFit_iff.1 (Nat.not_le.2 hshort))⟩

end Sys2Proof.Proofs
end

section
/-!
PROOFS. The writing of a job from one program's end to the next (R31, R32, R101 to R106, R112), and the end of an activation record's
program (R39, R40).
-/

namespace Sys2Proof.Proofs

open Sys2Proof.Machine Sys2Proof.Safety Sys2Proof.Laws

variable {s u t : State} {img : Image} {loc : Location} {j k : CommitJob} {others : List CommitJob} {outcome : OpOutcome} {ok : Bool}
  {e : StagedEntry} {saturated : Bool} {T : Word}

/-! ### The job that holds the array -/

theorem holderJob_writing (hq : s.commit.queue = j :: others) (hj : j.state = .writing) : s.holderJob = some j := by
  unfold State.holderJob
  rw [hq]
  dsimp only
  rw [hj]
  rfl

theorem holdsArray_writing (hj : j.state = .writing) : j.state.holdsArray = true := by
  rw [hj]
  rfl

/-- A program of the job's image or MARK ended. -/
theorem imageEnds_commit (ht : s.array.tenancy = .commit) (hq : s.commit.queue = j :: others) (hj : j.state = .writing) :
    s.imageEnds img loc outcome ok =
      if outcome = .done then (s.imageDone img loc).commitImageDone j img loc
      else (failedSpan s img loc ok).commitImageFailed j img := by
  unfold State.imageEnds
  rw [ht]
  dsimp only
  rw [holderJob_writing hq hj, ← imageFailed_eq]

/-- Of the job that ends only its link, its session and its transaction number matter. -/
theorem jobEnded_congr (code : Byte) (key : Key) (n : Nat) (b : Bool) (hl : k.link = j.link) (hs : k.session = j.session)
    (ht : k.txn = j.txn) : jobEnded s k code key n b = jobEnded s j code key n b := by
  unfold jobEnded jobReported
  rw [hl, hs, ht]

/-- Whatever stands at the head of the queue for the job that ends. -/
theorem jobEnded_requeued (l : List Place) (code : Byte) (key : Key) (n : Nat) (b : Bool) (hq : u.commit.queue = j :: others)
    (hl : k.link = j.link) :
    jobEnded (withWaste (u.setQueue (k :: others)) l) k code key n b = jobEnded (withWaste u l) k code key n b := by
  refine jobEnded_setQueue (withWaste u l) (k :: others) k code key n b ?_
  rw [withWaste_commit, hq]
  simp [hl]

/-- A job that holds the array ends with MEDIA-FAULT or HALTED: its written images are waste (R105, R112). -/
theorem endJob_wasted {r : Result} (hr : r = .mediaFault ∨ r = .halted) (key : Key) (hj : j.state = .writing) :
    s.endJob j r key = jobEnded (withWaste s j.written) j r.code key 0 false := by
  rw [endJob_eq s j r key (holdsArray_writing hj), if_pos hr]
  rcases hr with rfl | rfl <;> rfl

/-! ### The next image (R100 to R103, R106) -/

theorem entryImage_key {e : StagedEntry} {b : Bool} (h : s.entryImage T e = some (img, b)) : img.key? = some e.key := by
  unfold State.entryImage at h
  split at h
  · cases h; rfl
  · cases h; rfl
  · split at h
    · cases h; rfl
    · cases h

theorem commitWrite_image {b : Bool} (he : (s.row j.link).staging[j.position - 1]? = some e)
    (hi : s.entryImage (j.txn.getD 0) e = some (img, b)) :
    s.commitWrite j = s.commitPlace { j with saturated := j.saturated || b } img := by
  unfold State.commitWrite
  dsimp only
  rw [he]
  dsimp only
  rw [hi]

theorem commitWrite_unread (he : (s.row j.link).staging[j.position - 1]? = some e) (hi : s.entryImage (j.txn.getD 0) e = none) :
    s.commitWrite j = s.endJob j .mediaFault e.key := by
  unfold State.commitWrite
  dsimp only
  rw [he]
  dsimp only
  rw [hi]

theorem commitWrite_mark (h : (s.row j.link).staging.length ≤ j.position - 1) :
    s.commitWrite j = s.commitPlace j (.mark (j.txn.getD 0) (s.row j.link).staging.length) := by
  unfold State.commitWrite
  dsimp only
  rw [List.getElem?_eq_none h]

/-- The job after one more image, at its next position. -/
def wroteImage (j : CommitJob) (img : Image) (loc : Location) (saturated : Bool) : CommitJob :=
  { j with written := j.written ++ [{ location := loc, size := img.units }], retries := 0, position := j.position + 1
           saturated := j.saturated || saturated }

/-- R103: the images still to come, this job's next one first, fit. -/
def restFits (s : State) (j : CommitJob) : Prop :=
  s.fits ((transactionSizes (s.row j.link).staging).drop j.position) = true

/-- R105: the job ends, its images and the last one waste. -/
def wroteEnded (u : State) (j : CommitJob) (img : Image) (loc : Location) (code : Byte) (key : Key) : State :=
  jobEnded (withWaste u (wroteImage j img loc false).written) (wroteImage j img loc false) code key 0 false

section

variable (hq : u.commit.queue = j :: others) (ho : ∀ x ∈ others, x.link ≠ j.link) (hj : j.state = .writing)

include ho in
/-- R103, the rest fits. -/
theorem commitPlace_wrote {img' : Image} (hf : restFits u j)
    (h : Placed (u.setQueue (wroteImage j img loc saturated :: others)) img' t) :
    (u.setQueue (wroteImage j img loc false :: others)).commitPlace (wroteImage j img loc saturated) img' = t :=
  commitPlace_placed (j := wroteImage j img loc false) (others := others) rfl ho rfl hf h

include hq hj in
/-- R103, R105: the rest no longer fits. -/
theorem commitPlace_wrote_short {img' : Image} (hf : ¬ restFits u j) :
    (u.setQueue (wroteImage j img loc false :: others)).commitPlace (wroteImage j img loc saturated) img' =
      wroteEnded u j img loc 0x60 (img'.key?.getD 0) := by
  refine (commitPlace_short (s := u.setQueue (wroteImage j img loc false :: others)) (j := wroteImage j img loc saturated)
    (holdsArray_writing hj) hf).trans ?_
  exact (jobEnded_congr (j := wroteImage j img loc false) _ _ _ _ rfl rfl rfl).trans (jobEnded_requeued _ _ _ _ _ hq rfl)

include hq ho hj in
/-- R101, R103: the next entry's image. -/
theorem commitWrite_wrote {img' : Image} (he : (u.row j.link).staging[j.position]? = some e)
    (hi : FormsImage u (j.txn.getD 0) e img' saturated) :
    (restFits u j → ∀ t, Placed (u.setQueue (wroteImage j img loc saturated :: others)) img' t →
      (u.setJob (wroteImage j img loc false)).commitWrite (wroteImage j img loc false) = t) ∧
    (¬ restFits u j →
      (u.setJob (wroteImage j img loc false)).commitWrite (wroteImage j img loc false) = wroteEnded u j img loc 0x60 e.key) := by
  have himage : u.entryImage (j.txn.getD 0) e = some (img', saturated) := (formsImage_iff u _ e img' saturated).1 hi
  have hwrite : (u.setQueue (wroteImage j img loc false :: others)).commitWrite (wroteImage j img loc false) =
      (u.setQueue (wroteImage j img loc false :: others)).commitPlace (wroteImage j img loc saturated) img' := by
    rw [commitWrite_image (s := u.setQueue (wroteImage j img loc false :: others)) (j := wroteImage j img loc false) he himage]
    simp only [wroteImage, Bool.or_false]
  rw [State.setJob_head (j' := wroteImage j img loc false) hq ho rfl, hwrite]
  refine ⟨fun hf t hp => commitPlace_wrote ho hf hp, fun hf => ?_⟩
  rw [commitPlace_wrote_short hq hj hf, entryImage_key himage]
  rfl

include hq ho hj in
/-- R102, R105: the committed value of the next entry's counter does not read back. -/
theorem commitWrite_wrote_unread {delta : Word} (he : (u.row j.link).staging[j.position]? = some e) (hadd : e.op = .add delta)
    (hv : ∀ value, ¬ CounterReads u e.key value) :
    (u.setJob (wroteImage j img loc false)).commitWrite (wroteImage j img loc false) = wroteEnded u j img loc 0x60 e.key := by
  have hread : u.readCounter e.key = none :=
    Option.eq_none_iff_forall_ne_some.2 fun v h => hv v ((counterReads_iff u e.key v).2 h)
  have himage : u.entryImage (j.txn.getD 0) e = none := by
    unfold State.entryImage
    rw [hadd, hread]
  rw [State.setJob_head (j' := wroteImage j img loc false) hq ho rfl,
    commitWrite_unread (s := u.setQueue (wroteImage j img loc false :: others)) (j := wroteImage j img loc false) he himage,
    endJob_wasted (.inl rfl) _ (j := wroteImage j img loc false) hj]
  exact jobEnded_requeued _ _ _ _ _ hq rfl

include hq ho hj in
/-- R106: after the last entry the MARK. -/
theorem commitWrite_wrote_mark (h : (u.row j.link).staging.length ≤ j.position) :
    (restFits u j → ∀ t, Placed (u.setQueue (wroteImage j img loc false :: others))
        (.mark (j.txn.getD 0) (u.row j.link).staging.length) t →
      (u.setJob (wroteImage j img loc false)).commitWrite (wroteImage j img loc false) = t) ∧
    (¬ restFits u j →
      (u.setJob (wroteImage j img loc false)).commitWrite (wroteImage j img loc false) = wroteEnded u j img loc 0x60 0) := by
  rw [State.setJob_head (j' := wroteImage j img loc false) hq ho rfl,
    commitWrite_mark (s := u.setQueue (wroteImage j img loc false :: others)) (j := wroteImage j img loc false) h]
  exact ⟨fun hf t hp => commitPlace_wrote ho hf hp, fun hf => commitPlace_wrote_short hq hj hf⟩

end

/-- R101, R112: an image that is no MARK is programmed. -/
theorem commitImageDone_image (h : ∀ n c, img ≠ .mark n c) (hj : j.state = .writing) :
    s.commitImageDone j img loc =
      if s.stopped then wroteEnded s j img loc 0x12 0
      else (s.setJob (wroteImage j img loc false)).commitWrite (wroteImage j img loc false) := by
  let last : CommitJob := { j with written := j.written ++ [{ location := loc, size := img.units }], retries := 0 }
  have hnext : wroteImage j img loc false = { last with position := j.position + 1 } := by
    simp only [wroteImage, last, Bool.or_false]
  have hend : s.endJob last .halted 0 = wroteEnded s j img loc 0x12 0 :=
    (endJob_wasted (j := last) (.inr rfl) 0 hj).trans (jobEnded_congr (k := last) (j := wroteImage j img loc false) _ _ _ _ rfl rfl rfl)
  rw [← hend, hnext]
  cases img with
  | mark n c => exact absurd rfl (h n c)
  | record => rfl
  | void => rfl
  | copyRecord => rfl
  | copyVoid => rfl

/-- The command that ends an image's program: on with the next image, or in a part that has stopped the job's end. -/
theorem exec_imageDone (hr : s.running = true) (ht : s.array.tenancy = .commit) (hop : s.array.op = some (.image img loc))
    (hm : ∀ n c, img ≠ .mark n c) (hq : s.commit.queue = j :: others) (hj : j.state = .writing) :
    exec (.programComplete .done ok) s = .next
      (if s.stopped then wroteEnded (s.imageDone img loc) j img loc 0x12 0
        else ((s.imageDone img loc).setJob (wroteImage j img loc false)).commitWrite (wroteImage j img loc false)).settle := by
  rw [exec_programComplete hr hop, imageEnds_commit ht hq hj, if_pos rfl, commitImageDone_image hm hj]
  rfl

theorem settle_wroteEnded (h : u.stopped = true) (code : Byte) (key : Key) :
    (wroteEnded u j img loc code key).settle = wroteEnded u j img loc code key := by
  refine State.settle_stopped ?_
  unfold State.stopped wroteEnded
  rw [jobEnded_mount, withWaste_mount]
  exact h

/-- Settles O28: the next entry's image, an unreadable counter, the MARK, and the part stopped. -/
theorem programDoneGoesOn : Obligations.ProgramDoneGoesOn := by
  intro img loc j others ok s hr ht hop hm hq ho hj list T u next on fits faults
  have hexec := exec_imageDone (ok := ok) hr ht hop hm hq hj
  have hu : s.imageDone img loc = u := imageDone_eq s img loc
  have huq : u.commit.queue = j :: others := hq
  have hrow : u.row j.link = s.row j.link := rfl
  have hheld : ∀ q, (u.setQueue q).array.tenancy ≠ .none := fun q => by
    rw [show (u.setQueue q).array.tenancy = .commit from ht]
    decide
  have hstop : u.stopped = s.stopped := rfl
  have hlist : (u.row j.link).staging = list := rfl
  rw [hu] at hexec
  clear_value u
  refine ⟨fun hs => ?_, fun hs => ?_⟩
  · rw [hs, if_neg (by decide)] at hexec
    refine ⟨fun e img' saturated he hi => ?_, fun e delta he hadd hv => ?_, fun hlen => ?_⟩
    · obtain ⟨hfits, hshort⟩ := commitWrite_wrote (img := img) (loc := loc) huq ho hj (hlist ▸ he) hi
      refine ⟨fun hf t hp => ?_, fun hf => ?_⟩
      · rw [hexec, hfits (by rw [restFits, hlist]; exact hf) t hp, settle_placed hp (hheld _)]
      · exact hexec.trans (by rw [hshort (by rw [restFits, hlist]; exact hf)]; rfl)
    · exact hexec.trans (by rw [commitWrite_wrote_unread huq ho hj (hlist ▸ he) hadd hv]; rfl)
    · obtain ⟨hfits, hshort⟩ := commitWrite_wrote_mark (img := img) (loc := loc) huq ho hj (hlist.symm ▸ hlen)
      rw [hlist] at hfits
      refine ⟨fun hf t hp => ?_, fun hf => ?_⟩
      · rw [hexec, hfits (by rw [restFits, hlist]; exact hf) t hp, settle_placed hp (hheld _)]
      · exact hexec.trans (by rw [hshort (by rw [restFits, hlist]; exact hf)]; rfl)
  · rw [hexec, if_pos hs, settle_wroteEnded (hstop.trans hs)]
    rfl

/-! ### A failed program (R32, R104) -/

theorem failedSpan_commit (s : State) (img : Image) (loc : Location) (ok : Bool) : (failedSpan s img loc ok).commit = s.commit := by
  unfold failedSpan State.scribble
  cases ok <;> simp

theorem failedSpan_row (s : State) (img : Image) (loc : Location) (ok : Bool) (l : Link) :
    (failedSpan s img loc ok).row l = s.row l := by
  unfold failedSpan State.scribble
  cases ok <;> simp

/-- Settles O29: a retry with room, a retry without, no retry left, and the part stopped. -/
theorem programFailedRetries : Obligations.ProgramFailedRetries := by
  intro img loc j others outcome ok s hr ht hop hd hq ho hj u restFits faults
  obtain ⟨hmount, -, hten, hstopped⟩ := failedSpan_frame s img loc ok
  have huq : u.commit.queue = j :: others := by rw [failedSpan_commit]; exact hq
  have hheld : ∀ q, (u.setQueue q).array.tenancy ≠ .none := fun q => by
    rw [show (u.setQueue q).array.tenancy = .commit from hten.trans ht]
    decide
  have hrow : u.row j.link = s.row j.link := failedSpan_row s img loc ok j.link
  let retried : CommitJob := { j with retries := j.retries + 1 }
  have hends : exec (.programComplete outcome ok) s = .next
      (if u.stopped then u.endJob j .halted 0
        else if j.retries + 1 ≤ 2 then u.commitPlace retried img else u.endJob j .mediaFault (img.key?.getD 0)).settle := by
    rw [exec_programComplete hr hop, imageEnds_commit ht hq hj, if_neg hd]
    rfl
  have hrest : (u.fits ((transactionSizes (u.row retried.link).staging).drop (retried.position - 1)) = true) = restFits := by
    rw [show u.row retried.link = _ from hrow]
    rfl
  rw [show u.stopped = s.stopped from hstopped] at hends
  refine ⟨fun hs => ?_, fun hs => ?_⟩
  · rw [hs, if_neg (by decide)] at hends
    refine ⟨fun hn hf t hp => ?_, fun hn hf => ?_, fun hn => ?_⟩
    · rw [hends, if_pos (by omega), commitPlace_placed (j' := retried) huq ho rfl (hrest ▸ hf) hp,
        settle_placed hp (hheld _)]
    · show exec (.programComplete outcome ok) s = _
      rw [hends, if_pos (by omega), commitPlace_short (j := retried) (holdsArray_writing hj) (hrest ▸ hf)]
      rfl
    · show exec (.programComplete outcome ok) s = _
      rw [hends, if_neg (by omega), endJob_wasted (.inl rfl) _ hj]
      rfl
  · rw [hends, if_pos hs, endJob_wasted (.inr rfl) 0 hj, State.settle_stopped]
    · rfl
    · unfold State.stopped
      rw [jobEnded_mount, withWaste_mount, show u.mount = s.mount from hmount]
      exact hs

/-! ### The end of an activation record's program (R39, R40) -/

theorem holderStops_commit (ht : s.array.tenancy = .commit) (hq : s.commit.queue = j :: others) (hj : j.state = .writing) :
    s.holderStops = jobEnded (withWaste s j.written) j 0x12 0 0 false := by
  unfold State.holderStops
  rw [ht]
  dsimp only
  rw [holderJob_writing hq hj]
  exact endJob_wasted (.inr rfl) 0 hj

theorem holderStops_move (ht : s.array.tenancy = .move) : s.holderStops = moveStopped s := by
  unfold State.holderStops
  rw [ht]
  rfl

theorem activationFindsNone_commit (ht : s.array.tenancy = .commit) (hq : s.commit.queue = j :: others) (hj : j.state = .writing) :
    s.activationFindsNone img = jobEnded (withWaste s j.written) j 0x60 (img.key?.getD 0) 0 false := by
  unfold State.activationFindsNone
  rw [ht]
  dsimp only
  rw [holderJob_writing hq hj]
  exact endJob_wasted (.inl rfl) _ hj

theorem activationFindsNone_move {v : Sector} (ht : s.array.tenancy = .move) (hv : s.reclaim.victim = some v) :
    s.activationFindsNone img = s.moveEndsEarly v false := by
  unfold State.activationFindsNone
  rw [ht]
  dsimp only
  rw [hv]

theorem activationEnds_done (i : Sector) (img : Image) : s.activationEnds i img .done =
    if s.stopped then (s.activationDone i).holderStops
    else (s.activationDone i).startOp (.image img { sector := i, unit := 2 }) := by
  rw [← (State.activationDone_frame s i).1]
  rfl

theorem activationEnds_failed (i : Sector) (img : Image) (hd : outcome ≠ .done) : s.activationEnds i img outcome =
    if s.stopped then (s.activationFailed i).holderStops
    else match (s.activationFailed i).chooseErased with
      | some k => (s.activationFailed i).startOp (.activation k img)
      | none => (s.activationFailed i).activationFindsNone img := by
  unfold State.activationEnds State.tryActivate
  rw [if_neg hd]
  dsimp only
  rw [(State.activationFailed_frame s i).1]
  cases (s.activationFailed i).chooseErased <;> rfl

/-- Settles O33: the record programmed, failed with another sector, failed with none, and the part stopped after either. -/
theorem activationRecordEnds : Obligations.ActivationRecordEnds := by
  intro i img outcome s hr ht hop active failed ends jobEnds stops
  have hactive : s.activationDone i = active := activationDone_eq s i
  have hfailed : s.activationFailed i = failed := activationFailed_eq s i
  obtain ⟨-, haten, hacommit, hareclaim⟩ := State.activationDone_frame s i
  obtain ⟨-, hften, hfcommit, hfreclaim⟩ := State.activationFailed_frame s i
  rw [hactive] at haten hacommit hareclaim
  rw [hfailed] at hften hfcommit hfreclaim
  have hexec : ∀ o, exec (.activationRecordComplete o) s = .next (s.activationEnds i img o).settle := fun o =>
    exec_activationRecordComplete hr hop
  have hfail : outcome ≠ .done → exec (.activationRecordComplete outcome) s = .next
      (if s.stopped then failed.holderStops else match failed.chooseErased with
        | some k => failed.startOp (.activation k img)
        | none => failed.activationFindsNone img).settle := fun hd => by
    rw [hexec, activationEnds_failed i img hd, hfailed]
  have hstops : ∀ (o : OpOutcome) (w : State), w.array.tenancy = s.array.tenancy → w.commit = s.commit →
      exec (.activationRecordComplete o) s = .next w.holderStops.settle → stops o w := fun o w hten hcommit hw => by
    refine ⟨fun j others hc hq _ hj => ?_, fun hm => ?_⟩
    · exact hw.trans (by rw [holderStops_commit (hten.trans hc) (by rw [hcommit]; exact hq) hj])
    · exact hw.trans (by rw [holderStops_move (hten.trans hm)])
  refine ⟨fun hs => ⟨?_, fun hd => ⟨fun k hk => ?_, fun hn => ⟨fun j others hc hq _ hj => ?_, fun v hm hv => ?_⟩⟩⟩,
    fun hs => ⟨hstops .done active haten hacommit ?_, fun hd => hstops outcome failed hften hfcommit ?_⟩⟩
  · show exec _ s = _
    rw [hexec, activationEnds_done, hs, if_neg (by decide), hactive, State.settle_held]
    exact fun h => ht (haten.symm.trans h)
  · show exec _ s = _
    rw [hfail hd, hs, if_neg (by decide), hk]
    exact congrArg _ (State.settle_held fun h => ht (hften.symm.trans h))
  · show exec _ s = _
    rw [hfail hd, hs, if_neg (by decide), hn]
    dsimp only
    rw [activationFindsNone_commit (hften.trans hc) (by rw [hfcommit]; exact hq) hj]
  · show exec _ s = _
    rw [hfail hd, hs, if_neg (by decide), hn]
    dsimp only
    rw [activationFindsNone_move (hften.trans hm) (by rw [hfreclaim]; exact hv)]
  · rw [hexec, activationEnds_done, if_pos hs, hactive]
  · rw [hfail hd, if_pos hs]

end Sys2Proof.Proofs
end

section
/-!
PROOFS. The retirement of a sector (R42 to R45), and the ends of failed erases in a reclaim cycle and in a format (R33, R132, R155).
-/

namespace Sys2Proof.Proofs

open Sys2Proof.Machine Sys2Proof.Safety Sys2Proof.Laws

variable {s t u : State} {i : Sector} {outcome : OpOutcome}

/-! ### Retirement (R42 to R44) -/

/-- What an offer makes of the notice queues rests on the queues alone (R161). -/
theorem offerBoth_notices_congr (h : t.notices = s.notices) (kind : NoticeKind) (subject : Half) (detail : Word) :
    (t.offerBoth kind subject detail).notices = (s.offerBoth kind subject detail).notices := by
  simp only [State.offerBoth, State.offerNotice, State.setNotices_notices, State.noticeQueue, h]

/-- A retirement up to its last step: the stale counts released, the row and the retired set, WEAR told. -/
def withdrawn (s : State) (i : Sector) (reason : WearReason) : State :=
  (((s.releaseAtRetirement i).setSec i { s.sec i with state := .retired, waste := 0 }).addRetired i).offerBoth .wear
    (BitVec.ofNat 16 i.val) (reason.code ++ BitVec.ofNat 24 (s.sec i).eraseCount)

theorem retire_eq (s : State) (i : Sector) (reason : WearReason) : s.retire i reason = (withdrawn s i reason).reconsiderMode := by
  unfold State.retire withdrawn State.wearNotice
  simp only [State.releaseAtRetirement_sec, State.setSec_sec_self]

theorem withdrawn_mount (s : State) (i : Sector) (reason : WearReason) : (withdrawn s i reason).mount = s.mount := by
  simp [withdrawn, State.offerBoth, State.offerNotice, State.addRetired]

theorem withdrawn_notices (s : State) (i : Sector) (reason : WearReason) : (withdrawn s i reason).notices =
    (s.offerBoth .wear (BitVec.ofNat 16 i.val) (reason.code ++ BitVec.ofNat 24 (s.sec i).eraseCount)).notices := by
  refine offerBoth_notices_congr ?_ _ _ _
  show (s.releaseAtRetirement i).notices = s.notices
  rw [State.releaseAtRetirement_eq]
  rfl

/-- The last step changes the notices and the mode alone, so the table is the retired one before it as after it. -/
theorem withdrawn_standing (s : State) (i : Sector) (reason : WearReason) :
    (withdrawn s i reason).standing = (s.retire i reason).standing := by
  rw [retire_eq, State.reconsiderMode_eq]
  rfl

theorem reconsiderMode_notices (s : State) : s.reconsiderMode.notices =
    (if s.mount.mode = .ready ∧ s.standing < 6 then s.offerBoth .storeMode 0 2 else s).notices := by
  by_cases h : s.mount.mode = .ready ∧ s.standing < 6
  · rw [if_pos h, show s.reconsiderMode = (s.setMode .readOnly).storeModeNotice .readOnly from if_pos h]
    exact offerBoth_notices_congr (s := s) rfl .storeMode 0 2
  · rw [if_neg h, show s.reconsiderMode = s from if_neg h]

/-- R44: the mode after a retirement. -/
theorem retire_mode (s : State) (i : Sector) (reason : WearReason) : (s.retire i reason).mount.mode =
    if s.mount.mode = .ready ∧ (s.retire i reason).standing < 6 then .readOnly else s.mount.mode := by
  rw [← withdrawn_standing, retire_eq, State.reconsiderMode_mode, withdrawn_mount]
  rfl

/-- R44, R45: the notices of a retirement. -/
theorem retire_notices (s : State) (i : Sector) (reason : WearReason) :
    let told := s.offerBoth .wear (BitVec.ofNat 16 i.val) (reason.code ++ BitVec.ofNat 24 (s.sec i).eraseCount)
    (s.retire i reason).notices =
      (if s.mount.mode = .ready ∧ (s.retire i reason).standing < 6 then told.offerBoth .storeMode 0 2 else told).notices := by
  intro told
  rw [← withdrawn_standing, retire_eq, reconsiderMode_notices, withdrawn_mount]
  split
  · exact offerBoth_notices_congr (withdrawn_notices s i reason) _ _ _
  · exact withdrawn_notices s i reason

/-- A retirement leaves the links, the sessions and the directory but for its stale counts. -/
theorem retire_rest (s : State) (i : Sector) (reason : WearReason) :
    (s.retire i reason).links = s.links ∧ (s.retire i reason).sessions = s.sessions ∧
      (s.retire i reason).directory = (s.releaseAtRetirement i).directory := by
  have hrelease := State.releaseAtRetirement_eq s i
  generalize (s.releaseAtRetirement i).directory = d at hrelease ⊢
  rw [retire_eq, State.reconsiderMode_eq]
  simp [withdrawn, State.offerBoth, State.offerNotice, State.addRetired, hrelease]

/-- R42: no image moves. -/
theorem releaseAtRetirement_location (s : State) (i : Sector) (k : Key) :
    (Directory.find (s.releaseAtRetirement i).directory k).map DirEntry.location =
      (Directory.find s.directory k).map DirEntry.location := by
  unfold State.releaseAtRetirement
  split
  · exact release_location s _ k
  · rfl

/-! ### Failed erases (R33, R41) -/

/-- R33, R41: the erase count raised at the end of an erase step, 90,000 told. -/
def eraseCounted (s : State) (i : Sector) : State :=
  let counted := s.clearOp.setSec i { s.sec i with eraseCount := (s.sec i).eraseCount + 1 }
  if (s.sec i).eraseCount = 89999 then counted.offerBoth .wear (BitVec.ofNat 16 i.val) 90000 else counted

theorem raiseEraseCount_clearOp (s : State) (i : Sector) : s.clearOp.raiseEraseCount i = eraseCounted s i :=
  raiseEraseCount_eq s.clearOp i

/-- The erase step of a reclaim cycle or of a format failed. -/
theorem eraseEnds_failed (hd : outcome ≠ .done) (ht : s.array.tenancy ≠ .scan) : s.eraseEnds i outcome =
    (((eraseCounted s i).retire i .eraseFailed).scribble (i.val * 4096) 4096).sectorTaken i false := by
  unfold State.eraseEnds State.failReason
  rw [if_neg hd, if_neg ht, eraseStepFailed_eq, raiseEraseCount_clearOp]

/-- The program of the erase record failed in a reclaim cycle or in a format. -/
theorem eraseRecordEnds_failed (hd : outcome ≠ .done) (ht : s.array.tenancy ≠ .scan) : s.eraseRecordEnds i outcome =
    ((s.clearOp.retire i .eraseRecordFailed).scribble (i.val * 4096) 16).sectorTaken i false := by
  unfold State.eraseRecordEnds State.failReason
  rw [if_neg hd, if_neg ht, eraseRecordFailed_eq]

theorem eraseCounted_mount (s : State) (i : Sector) : (eraseCounted s i).mount = s.mount := by
  rw [← raiseEraseCount_clearOp, State.raiseEraseCount_mount]
  rfl

theorem eraseCounted_tenancy (s : State) (i : Sector) : (eraseCounted s i).array.tenancy = s.array.tenancy := by
  rw [← raiseEraseCount_clearOp, State.raiseEraseCount_array]
  rfl

theorem scribble_tenancy (s : State) (a n : Nat) : (s.scribble a n).array.tenancy = s.array.tenancy := rfl

theorem scribble_mount (s : State) (a n : Nat) : (s.scribble a n).mount = s.mount := rfl

theorem scribble_stopped (s : State) (a n : Nat) : (s.scribble a n).stopped = s.stopped := rfl

/-- A retirement with free bytes after it keeps the tenancy, the stop and the format's record. -/
theorem retire_scribble_frame (s : State) (i : Sector) (reason : WearReason) (a n : Nat) :
    ((s.retire i reason).scribble a n).array.tenancy = s.array.tenancy ∧ ((s.retire i reason).scribble a n).stopped = s.stopped ∧
      ((s.retire i reason).scribble a n).mount.format = s.mount.format := by
  rw [scribble_tenancy, scribble_stopped, scribble_mount, State.retire_mount]
  exact ⟨State.retire_tenancy s i reason, State.retire_stopped s i reason, rfl⟩

theorem sectorTaken_erase (ht : s.array.tenancy = .erase) (ok : Bool) : s.sectorTaken i ok = cycleEnded (withoutJoins s i) := by
  unfold State.sectorTaken
  rw [ht]
  exact endErasePhase_eq s i

/-- Settles O35: the retirement field by field, its reasons, and the two failures of a reclaim cycle's erase. -/
theorem failureRetiresSector : Obligations.FailureRetiresSector := by
  refine ⟨fun i reason s => ?_, rfl, fun i outcome s hr ht hd => ⟨fun ho => ?_, fun ho => ?_⟩⟩
  · intro t told drops
    have harray := State.retire_array s i reason
    obtain ⟨hlinks, hsessions, hdir⟩ := retire_rest s i reason
    refine ⟨?_, fun k hk => ?_, ?_, ?_, ?_, retire_mode s i reason, retire_notices s i reason, fun k => ?_, hlinks, hsessions⟩
    · exact (State.retire_sec s i i reason).trans (if_pos rfl)
    · exact (State.retire_sec s i k reason).trans (if_neg hk)
    · rw [harray]; rfl
    · rw [harray]; rfl
    · rw [harray]; rfl
    · rw [hdir]
      exact releaseAtRetirement_location s i k
  · intro counted told
    rw [exec_eraseComplete hr ho, eraseEnds_failed hd (by rw [ht]; decide), sectorTaken_erase]
    · rfl
    · rw [(retire_scribble_frame _ _ _ _ _).1, eraseCounted_tenancy, ht]
  · rw [exec_eraseRecordComplete hr ho, eraseRecordEnds_failed hd (by rw [ht]; decide), sectorTaken_erase]
    rw [(retire_scribble_frame _ _ _ _ _).1, State.clearOp_array]
    exact ht

end Sys2Proof.Proofs
end

section
/-!
PROOFS. FORMAT (R45, R135, R154 to R157): its request, its grant and groups, the ends of its operations, its completion and its unwinding.
-/

namespace Sys2Proof.Proofs

open Sys2Proof.Machine Sys2Proof.Safety Sys2Proof.Laws

variable {s : State} {sq : Byte} {f : FormatRecord} {i v : Sector} {outcome : OpOutcome}

/-! ### The request (R154) -/

theorem exec_format {l : Link} (h : PassesFree s l sq) : exec (.format l sq) s = .next (requestFormat l sq (atOwner s l)) := by
  show Host.Outcome.next (takeRequest l sq .format true (requestFormat l sq) s) = _
  rw [takeRequest_free h]

/-- R153, R154: the checks that a SERVICE session passes. -/
theorem serviceRefusal_none {l : Link} (hm : answersMode s.mount.mode) (ho : OpenWith (s.row l) .service) :
    serviceRefusal (atOwner s l) l = none := by
  unfold serviceRefusal
  rw [atOwner_mount, modeRefusal_answers hm, atOwner_row_self, freshLease_holds, holdsSession_of_open ho, freshLease_privilege, ho.2.2]
  rfl

/-- R154: what makes a FORMAT BUSY. -/
def formatBusy (s : State) : Prop :=
  (s.row .p).state ≠ .none ∨ s.commit.queue ≠ [] ∨ (s.mount.mode ≠ .unformatted ∧ s.erasedCount = 0)

theorem inService_of_answers (hm : answersMode s.mount.mode) : s.inService = true ↔ s.mount.mode ≠ .unformatted := by
  rw [inService_iff]
  rcases hm with h | h | h <;> rw [h] <;> decide

theorem requestFormat_busy (hr : serviceRefusal s .s = none) (hm : answersMode s.mount.mode) (hb : formatBusy s) :
    requestFormat .s sq s = s.refuse .s sq .format .busy := by
  unfold requestFormat
  rw [hr]
  dsimp only
  by_cases hrow : (s.row .p).state ≠ .none
  · rw [if_pos hrow]
  · by_cases hq : s.commit.queue = []
    · have hempty := (hb.resolve_left hrow).resolve_left fun hne => hne hq
      rw [if_neg hrow, if_neg (by simp [hq]), if_pos ⟨(inService_of_answers hm).2 hempty.1, hempty.2⟩]
    · rw [if_neg hrow, if_pos (by simp [hq])]

theorem requestFormat_accepted (hr : serviceRefusal s .s = none) (hm : answersMode s.mount.mode) (hb : ¬ formatBusy s) :
    requestFormat .s sq s = s.acceptFormat .s sq := by
  obtain ⟨hrow, hq, hspace⟩ := not_or.1 hb |>.imp_right not_or.1
  unfold requestFormat
  rw [hr]
  dsimp only
  rw [if_neg hrow, if_neg (by simpa using hq), if_neg]
  exact fun ⟨hs, he⟩ => hspace ⟨(inService_of_answers hm).1 hs, he⟩

/-! ### The grant and the groups (R155) -/

theorem inState_eq_decide (s : State) (x : SectorState) (i : Sector) : s.inState x i = decide ((s.sec i).state = x) := rfl

theorem not_inState_eq_decide (s : State) (x : SectorState) (i : Sector) : (!s.inState x i) = decide ((s.sec i).state ≠ x) := by
  rw [inState_eq_decide, decide_not]

theorem grantFormat_eq (s : State) (f : FormatRecord) :
    let begun := (((s.setReclaim { Reclaimer.start with rotation := s.reclaim.rotation }).setEpoch (some (match f.previousEpoch with
        | some e => e + 1
        | none => 1))).setMount { s.mount with activity := .format }).setTenancy .format
    let standing := (List.finRange 48).filter fun i => decide ((s.sec i).state ≠ .retired)
    let first := standing.filter fun i => decide ((s.sec i).state = .erased)
    let second := standing.filter fun i => decide ((s.sec i).state ≠ .erased)
    s.grantFormat f =
      if f.previousMode = .unformatted then State.formatSecond { f with stage := .second } standing begun
      else State.formatFirst { f with stage := .first, firstEmpty := first.isEmpty, secondTodo := second } first begun := by
  intro begun standing first second
  have hsec : ∀ k, begun.sec k = s.sec k := fun _ => rfl
  have hstanding : (allSectors.filter fun k => !begun.inState .retired k) = standing := by
    simp only [not_inState_eq_decide, hsec]
    rfl
  have hfirst : standing.filter (begun.inState .erased) = first := by
    simp only [first, ← hsec, ← inState_eq_decide]
  have hsecond : (standing.filter fun k => !begun.inState .erased k) = second := by
    simp only [not_inState_eq_decide, hsec]
    rfl
  rw [← hfirst, ← hsecond, ← hstanding]
  rfl

theorem worn_iff : s.worn i = true ↔ 100000 ≤ (s.sec i).eraseCount :=
  decide_eq_true_iff

/-- R45, R155: a worn sector of a group is retired and the group goes on. -/
theorem formatGroups_worn (rest : List Sector) (h : 100000 ≤ (s.sec i).eraseCount) :
    State.formatFirst f (i :: rest) s = State.formatFirst f rest (s.retire i .worn) ∧
      State.formatSecond f (i :: rest) s = State.formatSecond f rest (s.retire i .worn) :=
  ⟨if_pos (worn_iff.2 h), if_pos (worn_iff.2 h)⟩

/-- R155: another is erased. -/
theorem formatGroups_erased (rest : List Sector) (h : (s.sec i).eraseCount < 100000) :
    State.formatFirst f (i :: rest) s =
        (s.setMount { s.mount with format := some { f with stage := .first, firstTodo := rest } }).startOp (.erase i) ∧
      State.formatSecond f (i :: rest) s =
        (s.setMount { s.mount with format := some { f with stage := .second, secondTodo := rest } }).startOp (.erase i) :=
  have hn : ¬ s.worn i = true := mt worn_iff.1 (Nat.not_le.2 h)
  ⟨if_neg hn, if_neg hn⟩

/-! ### The ends of its operations (R155, R157) -/

/-- A sector of the format has been given its record (`ok`) or retired: by the format's stage. -/
theorem sectorTaken_format (ht : s.array.tenancy = .format) (hs : s.stopped = false) (hf : s.mount.format = some f) (ok : Bool) :
    let f' := { f with newEpochWritten := f.newEpochWritten || ok }
    (f.stage = .first → s.sectorTaken i ok = State.formatFirst f' f.firstTodo s) ∧
    (f.stage = .second → s.sectorTaken i ok = State.formatSecond f' f.secondTodo s) ∧
    (f.stage = .unwinding → s.sectorTaken i ok = s.formatFails f) := by
  intro f'
  have htaken : s.sectorTaken i ok = s.formatGoesOn ok := by
    unfold State.sectorTaken
    rw [ht]
    dsimp only
    rw [if_neg (by simp [hs])]
  rw [htaken]
  unfold State.formatGoesOn
  rw [hf]
  dsimp only
  refine ⟨fun h => ?_, fun h => ?_, fun h => ?_⟩
  · simp only [f', h]
  · simp only [f', h]
  · rw [h]

/-- From the state that the operation's end leaves, the command goes on with the format. -/
theorem format_goesOn {c : Instr} {t u : State} {ok : Bool} (hc : exec c s = .next t.settle) (ht : t = u.sectorTaken i ok)
    (hten : u.array.tenancy = .format) (hs : u.stopped = false) (hf : u.mount.format = some f) :
    let f' := { f with newEpochWritten := f.newEpochWritten || ok }
    (f.stage = .first → exec c s = .next (State.formatFirst f' f.firstTodo u).settle) ∧
    (f.stage = .second → exec c s = .next (State.formatSecond f' f.secondTodo u).settle) ∧
    (f.stage = .unwinding → exec c s = .next (u.formatFails f).settle) := by
  intro f'
  obtain ⟨hfirst, hsecond, hunwinding⟩ := sectorTaken_format (i := i) hten hs hf ok
  rw [hc, ht]
  exact ⟨fun h => by rw [hfirst h], fun h => by rw [hsecond h], fun h => by rw [hunwinding h]⟩

/-- The three ends that leave no erase record's program in flight. -/
theorem formatOperationEnds (hr : s.running = true) (hs : s.stopped = false) (ht : s.array.tenancy = .format)
    (hf : s.mount.format = some f) :
    let goesOn := fun (ended : Instr) (ok : Bool) (u : State) =>
      let f' := { f with newEpochWritten := f.newEpochWritten || ok }
      (f.stage = .first → exec ended s = .next (State.formatFirst f' f.firstTodo u).settle) ∧
      (f.stage = .second → exec ended s = .next (State.formatSecond f' f.secondTodo u).settle) ∧
      (f.stage = .unwinding → exec ended s = .next (u.formatFails f).settle)
    (s.array.op = some (.eraseRecord i) → goesOn (.eraseRecordComplete .done) true (s.eraseRecordDone i)) ∧
    (s.array.op = some (.eraseRecord i) → outcome ≠ .done →
      goesOn (.eraseRecordComplete outcome) false ((s.clearOp.retire i .eraseRecordFailed).scribble (i.val * 4096) 16)) ∧
    (s.array.op = some (.erase i) → outcome ≠ .done →
      goesOn (.eraseComplete outcome) false (((eraseCounted s i).retire i .eraseFailed).scribble (i.val * 4096) 4096)) := by
  have hscan : s.array.tenancy ≠ .scan := by rw [ht]; decide
  refine ⟨fun ho => ?_, fun ho hd => ?_, fun ho hd => ?_⟩
  · exact format_goesOn (exec_eraseRecordComplete hr ho) rfl ht hs hf
  · obtain ⟨hten, hstop, hformat⟩ := retire_scribble_frame s.clearOp i .eraseRecordFailed (i.val * 4096) 16
    exact format_goesOn (exec_eraseRecordComplete hr ho) (eraseRecordEnds_failed hd hscan) (hten.trans ht) (hstop.trans hs)
      (hformat.trans hf)
  · obtain ⟨hten, hstop, hformat⟩ := retire_scribble_frame (eraseCounted s i) i .eraseFailed (i.val * 4096) 4096
    have hmount := eraseCounted_mount s i
    refine format_goesOn (exec_eraseComplete hr ho) (eraseEnds_failed hd hscan) (hten.trans ((eraseCounted_tenancy s i).trans ht))
      (hstop.trans ?_) (hformat.trans (by rw [hmount]; exact hf))
    unfold State.stopped
    rw [hmount]
    exact hs

/-! ### The completion (R156) -/

/-- R156: the directory empty, and of a session on Link S the staging and the watch list. -/
def storeEmptied (s : State) : State :=
  let r := s.row .s
  (s.setDirectory []).setRow .s (if r.state ≠ .none ∧ r.orphaned = false then { r with staging := [], watch := [] } else r)

/-- R156: the numbers at 1, the retired set unrecorded. -/
def numbersReset (s : State) : State :=
  ((s.setNextTxn 1).setNextSeq 1).setRetired s.array.retiredSet false

theorem formatCompletes_eq (s : State) :
    s.formatCompletes = formatEnded (numbersReset (storeEmptied s)) (if s.standing < 6 then .readOnly else .ready) 0x00 := by
  have hholds : ((s.setDirectory []).row .s).holdsSession = true ↔ (s.row .s).state ≠ .none ∧ (s.row .s).orphaned = false := by
    simp [SessionRow.holdsSession]
  have hcompletes : s.formatCompletes =
      (numbersReset (storeEmptied s)).formatEnds (numbersReset (storeEmptied s)).modeByStanding .ok := by
    unfold State.formatCompletes storeEmptied
    dsimp only
    by_cases h : (s.row .s).state ≠ .none ∧ (s.row .s).orphaned = false
    · rw [if_pos (hholds.2 h), if_pos h]
      rfl
    · rw [if_neg (mt hholds.1 h), if_neg h]
      rfl
  rw [hcompletes, formatEnds_eq]
  rfl

/-! ### The end without a new epoch (R157) -/

/-- The first sector in a state is the lowest-numbered one. -/
theorem sectorsIn_head {x : SectorState} (hv : (s.sec v).state = x) (hfirst : ∀ k, (s.sec k).state = x → v ≤ k) :
    (s.sectorsIn x).head? = some v := by
  have hmem : v ∈ s.sectorsIn x := mem_sectorsIn.2 hv
  have hsorted : (s.sectorsIn x).Pairwise (· < ·) := allSectors_sorted.filter _
  cases h : s.sectorsIn x with
  | nil => rw [h] at hmem; cases hmem
  | cons k rest =>
    rw [h] at hmem hsorted
    have hk : v ≤ k := hfirst k (mem_sectorsIn.1 (by rw [h]; exact List.mem_cons_self))
    rcases List.mem_cons.1 hmem with rfl | hrest
    · rfl
    · exact absurd ((List.pairwise_cons.1 hsorted).1 v hrest) (Fin.not_lt.2 hk)

theorem sectorsIn_nil {x : SectorState} (h : ∀ k, (s.sec k).state ≠ x) : s.sectorsIn x = [] :=
  List.eq_nil_iff_forall_not_mem.2 fun k hk => h k (mem_sectorsIn.1 hk)

/-- R157: the state in which a MOVED victim is looked for. -/
def unwound (s : State) (f : FormatRecord) : State :=
  ((s.setEpoch f.previousEpoch).setMount { s.mount with format := some { f with stage := .unwinding } }).setDirectory
    (s.directory.filter fun e => !e.dropPending)

theorem formatUnwinds_eq (s : State) (f : FormatRecord) : s.formatUnwinds f =
    match (s.sectorsIn .moved).head? with
    | some v =>
      if (s.sec v).retirePending then ((unwound s f).retire v .retirePending).formatFails { f with stage := .unwinding }
      else if s.worn v then ((unwound s f).retire v .worn).formatFails { f with stage := .unwinding }
      else (unwound s f).startOp (.erase v)
    | none => (unwound s f).formatFails { f with stage := .unwinding } := rfl

/-- R157: the joins of the log entered again. -/
def rejoined (s : State) : State :=
  let log := (List.finRange 48).filter fun i => decide ((s.sec i).state = .active ∨ (s.sec i).state = .full)
  s.setReclaim { s.reclaim with span := (replayOf s log).part.reclaim.span }

theorem rejoin_eq (s : State) : s.rejoin = rejoined s := by
  unfold State.rejoin rejoined
  simp only [inState_eq_decide, ← Bool.decide_or]
  rfl

theorem formatFails_eq (s : State) (f : FormatRecord) : s.formatFails f =
    if f.previousMode = .ready ∧ s.standing < 6 then
      formatEnded ((rejoined s).offerBoth .storeMode 0 2) .readOnly (if f.firstEmpty then 0x10 else 0x60)
    else formatEnded (rejoined s) f.previousMode (if f.firstEmpty then 0x10 else 0x60) := by
  have hcode : (if f.firstEmpty then Result.busy else .mediaFault).code = if f.firstEmpty then 0x10 else 0x60 := by
    cases f.firstEmpty <;> rfl
  have hlow : (f.previousMode == .ready && decide (s.rejoin.standing < Config.minSectors)) = true ↔
      f.previousMode = .ready ∧ s.standing < 6 := by
    rw [Bool.and_eq_true, beq_iff_eq, decide_eq_true_eq]
    rfl
  unfold State.formatFails
  dsimp only
  rw [formatEnds_eq, hcode]
  by_cases h : f.previousMode = .ready ∧ s.standing < 6
  · rw [if_pos h, if_pos (hlow.2 h), if_pos (hlow.2 h), rejoin_eq]
    rfl
  · rw [if_neg h, if_neg (mt hlow.1 h), if_neg (mt hlow.1 h), rejoin_eq]

/-- Settles O40: the request, the grant, the groups, the ends of operations, the completion, and the end without a new epoch. -/
theorem formatFromRequestToEnd : Obligations.FormatFromRequestToEnd := by
  refine ⟨fun sq s hp hm ho => ?_, fun f s => grantFormat_eq s f,
    fun f i rest s => ⟨formatGroups_worn rest, formatGroups_erased rest, rfl, rfl⟩,
    fun f i outcome s hr hs ht hf => ?_, formatCompletes_eq, fun f s => ?_⟩
  · intro r busy
    have hrefusal := serviceRefusal_none (l := .s) hm ho
    rw [exec_format hp]
    refine ⟨fun hb => ?_, fun hb => ?_⟩
    · rw [requestFormat_busy hrefusal hm hb, refuse_atOwner]
      rfl
    · intro accepted
      rw [requestFormat_accepted hrefusal hm hb]
      exact ⟨rfl, fun hheld => State.settle_held hheld⟩
  · obtain ⟨hdone, hrecordFailed, heraseFailed⟩ := formatOperationEnds (i := i) (outcome := outcome) hr hs ht hf
    rw [eraseRecordDone_eq] at hdone
    exact ⟨hdone, hrecordFailed, heraseFailed⟩
  · intro f' u
    refine ⟨fun hn => ?_, fun v hv hfirst => ⟨fun hp => ?_, fun hp hw => ?_, fun hp hw => ?_⟩, ?_⟩
    · rw [formatUnwinds_eq, sectorsIn_nil hn]
      rfl
    · rw [formatUnwinds_eq, sectorsIn_head hv hfirst]
      exact if_pos hp
    · rw [formatUnwinds_eq, sectorsIn_head hv hfirst]
      exact (if_neg (by simp [hp])).trans (if_pos (worn_iff.2 hw))
    · rw [formatUnwinds_eq, sectorsIn_head hv hfirst]
      exact (if_neg (by simp [hp])).trans (if_neg (mt worn_iff.1 (Nat.not_le.2 hw)))
    · intro log joined code
      exact ⟨fun h => (formatFails_eq s f).trans (if_pos h), fun h => (formatFails_eq s f).trans (if_neg h)⟩

end Sys2Proof.Proofs
end

section
/-!
PROOFS. What every step keeps of the commit queue, of the reply queues, of the session numbers and of the transmit lines (law 10): each
single move keeps each of the four, so every step does.
-/

namespace Sys2Proof.Proofs

open Sys2Proof.Machine Sys2Proof.Safety Sys2Proof.Laws

variable {g : Prop} {s t : State}

/-- R89: of the moves only those of the queue and a start touch it; a job is added only where its link has none. -/
theorem move_keeps_queueLaw (m : Move g s t) (h : QueueLaw s) : QueueLaw t := by
  cases m with
  | queueMap f hf => exact List.Pairwise.map f (fun x y hxy => by rw [hf x, hf y]; exact hxy) h
  | queueFilter p => exact List.Pairwise.filter p h
  | queueAdd j hj => exact List.pairwise_append.2 ⟨h, List.pairwise_singleton _ j, fun x hx y hy => by
      rw [List.mem_singleton.1 hy]; exact hj x hx⟩
  | started cause => exact List.Pairwise.nil
  | _ => exact h

/-- R178: a link's queue grows only while a place is free. -/
theorem move_keeps_replyLaw (m : Move g s t) (h : ReplyLaw s) : ReplyLaw t := by
  cases m with
  | link l k hk ht =>
    intro x
    rw [State.setLink_link]
    split
    · exact hk.elim id fun hle => Nat.le_trans hle (h l)
    · exact h x
  | started cause => intro x; cases x <;> exact Nat.zero_le 4
  | _ => exact h

/-- R178, R184: a link's transmit line follows its queue, passes to mark, or stands with the queue. -/
theorem move_keeps_transmitLaw (m : Move g s t) (h : TransmitLaw s) : TransmitLaw t := by
  cases m with
  | link l k hk ht =>
    intro x
    rw [State.setLink_link]
    split
    · refine ht.elim id fun hkept => ?_
      obtain ⟨htx, hreplies⟩ := hkept
      rw [TransmitLawOf, htx, hreplies]
      exact h l
    · exact h x
  | started cause => intro x; cases x <;> exact .inl rfl
  | _ => exact h

/-- The law of the two numbers, said from either link. -/
theorem numbersDiffer_iff (l : Link) :
    NumbersDiffer s ↔ (s.row l).number = none ∨ (s.row l).number ≠ (s.row l.other).number := by
  cases l with
  | p => rfl
  | s =>
    unfold NumbersDiffer
    rw [show Link.other .s = .p from rfl]
    grind

/-- R50: a row takes no number that the other row holds. -/
theorem setRow_numbersDiffer {l : Link} {r : SessionRow} (h : NumbersDiffer s)
    (hn : r.number = none ∨ r.number = (s.row l).number ∨ r.number ≠ (s.row l.other).number) : NumbersDiffer (s.setRow l r) := by
  rw [numbersDiffer_iff l] at h ⊢
  have hother : (s.setRow l r).row l.other = s.row l.other := by cases l <;> rfl
  rw [State.setRow_row_self, hother]
  rcases hn with hn | hn | hn
  · exact .inl hn
  · rw [hn]; exact h
  · exact .inr hn

/-- R50: of the moves only those of a row and a start touch a number; those of a staging list keep it. -/
theorem move_keeps_numbersDiffer (m : Move g s t) (h : NumbersDiffer s) : NumbersDiffer t := by
  cases m with
  | row l r hn hs => exact setRow_numbersDiffer h hn
  | stage l e => exact setRow_numbersDiffer h (.inr (.inl rfl))
  | append l => exact setRow_numbersDiffer h (.inr (.inl rfl))
  | sum l => exact setRow_numbersDiffer h (.inr (.inl rfl))
  | unstage l k => exact setRow_numbersDiffer h (.inr (.inl rfl))
  | started cause => exact .inl rfl
  | _ => exact h

/-- Settles O59: every move keeps each of the four laws, so every step does. -/
theorem stepKeepsQueueLaws : Obligations.StepKeepsQueueLaws :=
  ⟨fun _ _ hs h => step_keeps (P := QueueLaw) (fun _ _ h => h) (fun _ _ m => move_keeps_queueLaw m) hs h,
    fun _ _ hs h => step_keeps (P := ReplyLaw) (fun _ _ h => h) (fun _ _ m => move_keeps_replyLaw m) hs h,
    fun _ _ hs h => step_keeps (P := NumbersDiffer) (fun _ _ h => h) (fun _ _ m => move_keeps_numbersDiffer m) hs h,
    fun _ _ hs h => step_keeps (P := TransmitLaw) (fun _ _ h => h) (fun _ _ m => move_keeps_transmitLaw m) hs h⟩

end Sys2Proof.Proofs
end

section
/-!
PROOFS. The session requests (R50 to R55, R59, R60): OPEN, RENEW, CLOSE, WATCH, UNWATCH by the branches of their owners, and what every
request that needs a session answers without one (R51, R133, R153, R154).
-/

namespace Sys2Proof.Proofs

open Sys2Proof.Machine Sys2Proof.Safety Sys2Proof.Laws

variable {s : State} {l : Link} {sq privilege lease : Byte} {p : Privilege} {key : Key}

/-! ### Rows -/

theorem holdsSession_iff {r : SessionRow} : r.holdsSession = true ↔ r.state ≠ .none ∧ r.orphaned = false := by
  simp [SessionRow.holdsSession]

theorem holdsSession_false_iff {r : SessionRow} : r.holdsSession = false ↔ r.state = .none ∨ r.orphaned = true := by
  rw [← Bool.not_eq_true, holdsSession_iff, Decidable.not_and_iff_or_not, ne_eq, Decidable.not_not, Bool.not_eq_false]

/-- A new lease takes the place of the one that the request restarted. -/
theorem freshLease_renewed (r : SessionRow) (staging : List StagedEntry) :
    ({ freshLease r with staging := staging } : SessionRow).withLease p lease =
      { r with privilege := some p, leasePeriod := some lease.toNat, leaseRemaining := some (lease.toNat * 1000), staging := staging } := by
  unfold freshLease
  split <;> rfl

/-! ### The fields of OPEN and RENEW (R51 to R53) -/

/-- R52, R53: a privilege that is none of the three, or a lease outside 1 to 120 s. -/
def BadFields (privilege lease : Byte) : Prop :=
  privilege = 0 ∨ 3 < privilege.toNat ∨ lease = 0 ∨ 120 < lease.toNat

theorem ofCode_code (p : Privilege) : Privilege.ofCode p.code = some p := by
  cases p <;> rfl

theorem ofCode_none_iff : Privilege.ofCode privilege = none ↔ privilege = 0 ∨ 3 < privilege.toNat := by
  unfold Privilege.ofCode
  split
  · rename_i h; subst h; decide
  · split
    · rename_i h; subst h; decide
    · split
      · rename_i h; subst h; decide
      · simp only [true_iff]
        bv_omega

theorem leaseInRange_iff : leaseInRange lease = true ↔ ¬ (lease = 0 ∨ 120 < lease.toNat) := by
  simp [leaseInRange]

theorem badFields_iff : BadFields privilege lease ↔ Privilege.ofCode privilege = none ∨ leaseInRange lease = false := by
  rw [ofCode_none_iff, ← Bool.not_eq_true, leaseInRange_iff, Decidable.not_not, or_assoc]
  rfl

theorem privilegeAllowed_iff : privilegeAllowed l p = true ↔ (l = .p → p ≠ .service) := by
  cases l <;> cases p <;> decide

/-- The field checks that OPEN and RENEW share, in their order. -/
def checkedFields (l : Link) (privilege lease : Byte) (refuse : Result → State) (accept : Privilege → State) : State :=
  match Privilege.ofCode privilege with
  | none => refuse .badValue
  | some p =>
    if !leaseInRange lease then refuse .badValue
    else if !privilegeAllowed l p then refuse .notPermitted
    else accept p

section

variable {refuse : Result → State} {accept : Privilege → State}

theorem checkedFields_bad (h : BadFields privilege lease) : checkedFields l privilege lease refuse accept = refuse .badValue := by
  unfold checkedFields
  split
  · rfl
  · rename_i p hp
    rw [(badFields_iff.1 h).resolve_left (by simp [hp])]
    rfl

theorem checkedFields_good (h : ¬ BadFields p.code lease) (ha : l = .p → p ≠ .service) :
    checkedFields l p.code lease refuse accept = accept p := by
  unfold checkedFields
  rw [badFields_iff, not_or, Bool.not_eq_false] at h
  rw [ofCode_code, h.2]
  dsimp only
  rw [privilegeAllowed_iff.2 ha]
  rfl

theorem checkedFields_service (h : ¬ BadFields 3 lease) : checkedFields .p 3 lease refuse accept = refuse .notPermitted := by
  unfold checkedFields
  rw [badFields_iff, not_or, Bool.not_eq_false] at h
  rw [h.2]
  rfl

end

/-! ### OPEN (R50, R52) -/

theorem exec_open (h : PassesFree s l sq) :
    exec (.openSession l sq privilege lease) s = .next (requestOpen l sq privilege lease (atOwner s l)) :=
  congrArg Host.Outcome.next (takeRequest_free h .openSession (requestOpen l sq privilege lease))

theorem newSession_atOwner : (atOwner s l).newSession l = s.newSession l := by
  unfold State.newSession
  rw [atOwner_row_other]
  rfl

section

variable (hm : answersMode s.mount.mode)
include hm

theorem requestOpen_sessionOpen (h : (s.row l).holdsSession = true) :
    requestOpen l sq privilege lease s = s.refuse l sq .openSession .sessionOpen := by
  unfold requestOpen
  rw [modeRefusal_answers hm]
  dsimp only
  rw [if_pos h]

theorem requestOpen_busy (h : (s.row l).orphaned = true) :
    requestOpen l sq privilege lease s = s.refuse l sq .openSession .busy := by
  unfold requestOpen
  rw [modeRefusal_answers hm]
  dsimp only
  rw [holdsSession_false_iff.2 (.inr h), if_neg (by decide), if_pos h]

/-- R52: on a link without a session the fields decide. -/
theorem requestOpen_absent (hs : (s.row l).state = .none) (ho : (s.row l).orphaned = false) :
    requestOpen l sq privilege lease s =
      checkedFields l privilege lease (s.refuse l sq .openSession) fun p =>
        ((s.setSessionCounter (nextSession (s.newSession l))).setRow l (.fresh (s.newSession l) p lease)).answer l sq .openSession .ok
          (be16 (s.newSession l) ++ [p.code, lease]) := by
  unfold requestOpen
  rw [modeRefusal_answers hm]
  dsimp only
  rw [holdsSession_false_iff.2 (.inl hs), if_neg (by decide), ho, if_neg (by decide)]
  rfl

end

/-- Settles O6: a row that holds a session, an orphaned one, and for an absent one the fields. -/
theorem openOpensSession : Obligations.OpenOpensSession := by
  intro l sq privilege lease s h hm after n absent badField
  have hm' : answersMode (atOwner s l).mount.mode := hm
  have hopen : absent → requestOpen l sq privilege lease (atOwner s l) = _ := fun ⟨hs, ho⟩ =>
    requestOpen_absent hm' (by rw [atOwner_row_self, freshLease_state]; exact hs)
      (by rw [atOwner_row_self, freshLease_orphaned]; exact ho)
  rw [exec_open h]
  refine ⟨?_, ?_, ?_, ?_, ?_⟩
  · rintro p rfl ha hgood hallowed
    rw [hopen ha, checkedFields_good hgood hallowed, newSession_atOwner]
    exact congrArg Host.Outcome.next (answer_setRow (s := s.setSessionCounter (after n)) _ .openSession .ok _)
  · intro hs ho
    rw [requestOpen_sessionOpen hm' (by rw [atOwner_row_self, freshLease_holds]; exact holdsSession_iff.2 ⟨hs, ho⟩), refuse_atOwner]
    rfl
  · intro ho
    rw [requestOpen_busy hm' (by rw [atOwner_row_self, freshLease_orphaned]; exact ho), refuse_atOwner]
    rfl
  · intro ha hb
    rw [hopen ha, checkedFields_bad hb, refuse_atOwner]
    rfl
  · rintro ha hgood rfl rfl
    rw [hopen ha, checkedFields_service hgood, refuse_atOwner]
    rfl

/-! ### RENEW and CLOSE (R53 to R55) -/

/-- R54: which RENEW lowers the privilege. -/
theorem rank_lt_iff {old : Privilege} : p.rank < old.rank ↔ (old = .service ∧ p ≠ .service) ∨ (old = .write ∧ p = .read) := by
  cases p <;> cases old <;> decide

theorem exec_renew (h : PassesFree s l sq) :
    exec (.renew l sq privilege lease) s = .next (requestRenew l sq privilege lease (atOwner s l)) :=
  congrArg Host.Outcome.next (takeRequest_free h .renew (requestRenew l sq privilege lease))

theorem exec_close (h : PassesFree s l sq) : exec (.close l sq) s = .next (requestClose l sq (atOwner s l)) :=
  congrArg Host.Outcome.next (takeRequest_free h .close (requestClose l sq))

section

variable (hm : answersMode s.mount.mode) (h : (s.row l).holdsSession = true)
include hm h

/-- R53, R54: with a session the fields decide. -/
theorem requestRenew_session :
    requestRenew l sq privilege lease s =
      checkedFields l privilege lease (s.refuse l sq .renew) fun p =>
        let lowered := p.rank < ((s.row l).privilege.map Privilege.rank).getD 0
        (s.setRow l ({ s.row l with staging := if lowered then [] else (s.row l).staging }.withLease p lease)).answer l sq .renew .ok
          (be16 ((s.row l).number.getD 0) ++ [p.code, lease, BitVec.ofNat 8 (if lowered then (s.row l).staging.length else 0)]) := by
  unfold requestRenew
  rw [modeRefusal_answers hm]
  dsimp only
  rw [h, if_neg (by decide)]
  simp only [decide_eq_true_eq]
  rfl

theorem requestClose_session :
    requestClose l sq s =
      (s.endRow l).answer l sq .close .ok (be16 ((s.row l).number.getD 0) ++ [BitVec.ofNat 8 (s.row l).staging.length]) := by
  unfold requestClose
  rw [modeRefusal_answers hm]
  dsimp only
  rw [h, if_neg (by decide)]

end

/-- Settles O7: RENEW with good fields, with bad ones, and CLOSE. -/
theorem renewAndClose : Obligations.RenewAndClose := by
  intro l sq s h hm
  have hm' : answersMode (atOwner s l).mount.mode := hm
  have hholds : (s.row l).state ≠ .none → (s.row l).orphaned = false → ((atOwner s l).row l).holdsSession = true := fun hs ho => by
    rw [atOwner_row_self, freshLease_holds]
    exact holdsSession_iff.2 ⟨hs, ho⟩
  refine ⟨?_, ?_, ?_⟩
  · intro old p lease ⟨hs, ho, hpriv⟩ h1 h2 hallowed lowered
    have hgood : ¬ BadFields p.code lease := by
      have hp : ¬ (p.code = 0 ∨ 3 < p.code.toNat) := by cases p <;> decide
      have hl : lease ≠ 0 := by rintro rfl; exact absurd h1 (by decide)
      rintro (hb | hb | hb | hb)
      · exact hp (.inl hb)
      · exact hp (.inr hb)
      · exact hl hb
      · omega
    have hrank : (p.rank < ((freshLease (s.row l)).privilege.map Privilege.rank).getD 0) = lowered := by
      rw [freshLease_privilege, hpriv]
      exact propext rank_lt_iff
    rw [exec_renew h, requestRenew_session hm' (hholds (by simp [hs]) ho), checkedFields_good hgood hallowed]
    dsimp only
    rw [atOwner_row_self, freshLease_renewed, answer_setRow]
    simp only [hrank, freshLease_staging, freshLease_number]
    rfl
  · intro privilege lease hs ho badField
    rw [exec_renew h, requestRenew_session hm' (hholds hs ho)]
    refine ⟨fun hb => ?_, ?_⟩
    · rw [checkedFields_bad hb, refuse_atOwner]
      rfl
    · rintro hgood rfl rfl
      rw [checkedFields_service hgood, refuse_atOwner]
      rfl
  · intro hs ho
    rw [exec_close h, requestClose_session hm' (hholds (by simp [hs]) ho), State.endRow, answer_setRow, atOwner_row_self,
      freshLease_number, freshLease_staging]
    rfl

/-! ### WATCH and UNWATCH (R59, R60) -/

theorem exec_watch (h : PassesFree s l sq) : exec (.watch l sq key) s = .next (requestWatch l sq key (atOwner s l)) :=
  congrArg Host.Outcome.next (takeRequest_free h .watch (requestWatch l sq key))

theorem exec_unwatch (h : PassesFree s l sq) : exec (.unwatch l sq key) s = .next (requestUnwatch l sq key (atOwner s l)) :=
  congrArg Host.Outcome.next (takeRequest_free h .unwatch (requestUnwatch l sq key))

section

variable (hm : answersMode s.mount.mode) (h : (s.row l).holdsSession = true)
include hm h

theorem requestWatch_session :
    requestWatch l sq key s =
      if keyInRange key = false then s.refuse l sq .watch .badKey
      else if key ∈ (s.row l).watch then s.answer l sq .watch .ok [BitVec.ofNat 8 (s.row l).watch.length]
      else if 8 ≤ (s.row l).watch.length then s.answer l sq .watch .watchFull [BitVec.ofNat 8 (s.row l).watch.length]
      else (s.setRow l { s.row l with watch := (s.row l).watch ++ [key] }).answer l sq .watch .ok
        [BitVec.ofNat 8 ((s.row l).watch.length + 1)] := by
  unfold requestWatch
  rw [modeRefusal_answers hm]
  dsimp only
  rw [h, if_neg (by decide)]
  simp only [Bool.not_eq_true', List.contains_iff_mem]
  rfl

theorem requestUnwatch_session :
    requestUnwatch l sq key s =
      if keyInRange key = false then s.refuse l sq .unwatch .badKey
      else if key ∈ (s.row l).watch then
        (s.setRow l { s.row l with watch := (s.row l).watch.filter (· != key) }).answer l sq .unwatch .ok
          [BitVec.ofNat 8 ((s.row l).watch.filter (· != key)).length]
      else s.refuse l sq .unwatch .notFound := by
  unfold requestUnwatch
  rw [modeRefusal_answers hm]
  dsimp only
  rw [h, if_neg (by decide)]
  simp only [Bool.not_eq_true', List.contains_iff_mem]

end

/-- Settles O9: by the key's range, its place in the list and the length of the list. -/
theorem watchListChanges : Obligations.WatchListChanges := by
  intro l sq key s h hm hs ho r left badKey
  have hholds : ((atOwner s l).row l).holdsSession = true := by
    rw [atOwner_row_self, freshLease_holds]
    exact holdsSession_iff.2 ⟨by simp [hs], ho⟩
  have hwatch := requestWatch_session (s := atOwner s l) (sq := sq) (key := key) hm hholds
  have hunwatch := requestUnwatch_session (s := atOwner s l) (sq := sq) (key := key) hm hholds
  have hkey : keyInRange key = false ↔ badKey := keyInRange_false_iff
  have hr : (atOwner s l).row l = r := atOwner_row_self
  simp only [hkey, hr] at hwatch hunwatch
  rw [exec_watch h, exec_unwatch h, hwatch, hunwatch]
  refine ⟨fun hb => ?_, fun hb hin => ?_, fun hb hin hfull => ?_, fun hb hin hfree => ?_, fun hb hin => ?_⟩
  · rw [if_pos hb, if_pos hb, refuse_atOwner, refuse_atOwner]
    exact ⟨rfl, rfl⟩
  · rw [if_neg hb, if_neg hb, if_pos hin, if_pos hin, answer_atOwner, answer_setRow]
    exact ⟨rfl, rfl⟩
  · rw [if_neg hb, if_neg hin, if_pos hfull, answer_atOwner]
    rfl
  · rw [if_neg hb, if_neg hin, if_neg (Nat.not_le.2 hfree), answer_setRow]
    rfl
  · rw [if_neg hb, if_neg hin, refuse_atOwner]
    rfl

/-! ### Requests without a session, or below SERVICE (R51, R70, R133, R153, R154) -/

/-- A request whose owner refuses it. -/
theorem takeRequest_refused {kind : ReqKind} {fits : Bool} {owner : State → State} {r : Result} (h : PassesFree s l sq)
    (hf : fits = true) (ho : owner (atOwner s l) = (atOwner s l).refuse l sq kind r) :
    takeRequest l sq kind fits owner s = refusedWith s l sq (replyKind kind.code) r.code kind.fixedPart := by
  rw [hf, takeRequest_free h, ho, refuse_atOwner]

/-- R70: the staging requests that name a key all answer what the common checks refuse. -/
theorem staging_refused {cls : Byte} {expected : Option Word} {delta : Word} {bytes : List Byte} {r : Result}
    (h : stagingRefusal s l (some key) = some r) :
    requestPut l sq key cls expected bytes s = s.refuse l sq .put r ∧ requestAppend l sq key bytes s = s.refuse l sq .append r ∧
    requestAdd l sq key delta s = s.refuse l sq .add r ∧ requestDelete l sq key expected s = s.refuse l sq .delete r ∧
    requestDrop l sq key s = s.refuse l sq .drop r := by
  unfold requestPut requestAppend requestAdd requestDelete requestDrop
  rw [h]
  exact ⟨rfl, rfl, rfl, rfl, rfl⟩

theorem stagedAbort_refused {r : Result} (h : stagingRefusal s l none = some r) :
    requestStaged l sq s = s.refuse l sq .staged r ∧ requestAbort l sq s = s.refuse l sq .abort r := by
  unfold requestStaged requestAbort
  rw [h]
  exact ⟨rfl, rfl⟩

theorem stagingRefusal_noSession (hm : s.mount.mode = .ready) (h : (s.row l).holdsSession = false) (k : Option Key) :
    stagingRefusal s l k = some .noSession := by
  unfold stagingRefusal
  rw [hm]
  dsimp only [stagingModeRefusal]
  rw [h]
  rfl

/-- R51: the session requests and COMMIT. -/
theorem session_refused (hm : answersMode s.mount.mode) (h : (s.row l).holdsSession = false) :
    requestRenew l sq privilege lease s = s.refuse l sq .renew .noSession ∧ requestClose l sq s = s.refuse l sq .close .noSession ∧
    requestWatch l sq key s = s.refuse l sq .watch .noSession ∧ requestUnwatch l sq key s = s.refuse l sq .unwatch .noSession := by
  unfold requestRenew requestClose requestWatch requestUnwatch
  rw [modeRefusal_answers hm]
  dsimp only
  rw [h]
  exact ⟨rfl, rfl, rfl, rfl⟩

/-- R87, R108: a COMMIT refused with no key carries the zeros of its fixed part. -/
theorem commit_refused (hm : answersMode s.mount.mode) (h : (s.row l).holdsSession = false) :
    requestCommit l sq s = s.refuse l sq .commit .noSession := by
  have hnot : ¬ (s.mount.mode = .mounting ∨ s.mount.mode = .formatting) ∧ s.mount.mode ≠ .halted := by
    rcases hm with hm | hm | hm <;> rw [hm] <;> decide
  unfold requestCommit
  rw [if_neg hnot.1, if_neg hnot.2, h, if_pos (by decide)]
  unfold State.refuseCommit
  rw [commitFields_none]
  rfl

/-- R133, R153, R154: RECLAIM, FORMAT and RESTART answer what their common checks refuse. -/
theorem service_refused {r : Result} (h : serviceRefusal s l = some r) :
    requestReclaim l sq s = s.refuse l sq .reclaim r ∧ requestFormat l sq s = s.refuse l sq .format r ∧
    requestRestart l sq s = s.refuse l sq .restart r := by
  unfold requestReclaim requestFormat requestRestart
  rw [h]
  exact ⟨rfl, rfl, rfl⟩

theorem serviceRefusal_noSession (hm : answersMode s.mount.mode) (h : (s.row l).holdsSession = false) :
    serviceRefusal s l = some .noSession := by
  unfold serviceRefusal
  rw [modeRefusal_answers hm, h]
  rfl

theorem serviceRefusal_notPermitted (hm : answersMode s.mount.mode) (h : (s.row l).holdsSession = true)
    (hp : (s.row l).privilege ≠ some .service) : serviceRefusal s l = some .notPermitted := by
  unfold serviceRefusal
  rw [modeRefusal_answers hm, h]
  dsimp only
  rw [if_neg (by decide), if_pos hp]

theorem requestReclaim_unformatted (hm : s.mount.mode = .unformatted) (h : serviceRefusal s l = none) :
    requestReclaim l sq s = s.refuse l sq .reclaim .notReady := by
  unfold requestReclaim
  rw [h]
  dsimp only
  rw [if_pos hm]

/-- Settles O11: the refusals of the staging requests, of the session requests and of RECLAIM, FORMAT and RESTART. -/
theorem noSessionRefused : Obligations.NoSessionRefused := by
  intro l sq privilege lease cls key expected delta bytes s h hlen absent refused service
  have hfits : decide (bytes.length ≤ Config.maxPart) = true := decide_eq_true hlen
  have hholds : ((atOwner s l).row l).holdsSession = (s.row l).holdsSession := by rw [atOwner_row_self, freshLease_holds]
  have hservice : ∀ r : Result, serviceRefusal (atOwner s l) l = some r → ∀ x ∈ service, refused x r.code := by
    intro r hr
    obtain ⟨hreclaim, hformat, hrestart⟩ := service_refused (sq := sq) hr
    simp only [service, List.forall_mem_cons]
    exact ⟨congrArg _ (takeRequest_refused h rfl hreclaim), congrArg _ (takeRequest_refused h rfl hformat),
      congrArg _ (takeRequest_refused h rfl hrestart), List.forall_mem_nil _⟩
  refine ⟨fun hm ha => ?_, fun hm ha => ?_, fun hm ha hp => ?_, fun hm ho => ?_⟩
  · have hnone := hholds.trans (holdsSession_false_iff.2 ha)
    obtain ⟨hput, happend, hadd, hdelete, hdrop⟩ := staging_refused (sq := sq) (cls := cls) (expected := expected) (delta := delta)
      (bytes := bytes) (stagingRefusal_noSession (s := atOwner s l) hm hnone (some key))
    obtain ⟨hstaged, habort⟩ := stagedAbort_refused (sq := sq) (stagingRefusal_noSession (s := atOwner s l) hm hnone none)
    simp only [List.forall_mem_cons]
    exact ⟨congrArg _ (takeRequest_refused h hfits hput), congrArg _ (takeRequest_refused h hfits happend),
      congrArg _ (takeRequest_refused h rfl hadd), congrArg _ (takeRequest_refused h rfl hdelete),
      congrArg _ (takeRequest_refused h rfl hdrop), congrArg _ (takeRequest_refused h rfl hstaged),
      congrArg _ (takeRequest_refused h rfl habort), List.forall_mem_nil _⟩
  · have hnone := hholds.trans (holdsSession_false_iff.2 ha)
    obtain ⟨hrenew, hclose, hwatch, hunwatch⟩ := session_refused (s := atOwner s l) (sq := sq) (privilege := privilege) (lease := lease)
      (key := key) hm hnone
    have hcommit := commit_refused (s := atOwner s l) (sq := sq) hm hnone
    refine List.forall_mem_append.2 ⟨?_, hservice .noSession (serviceRefusal_noSession (s := atOwner s l) hm hnone)⟩
    simp only [List.forall_mem_cons]
    exact ⟨congrArg _ (takeRequest_refused h rfl hrenew), congrArg _ (takeRequest_refused h rfl hclose),
      congrArg _ (takeRequest_refused h rfl hcommit), congrArg _ (takeRequest_refused h rfl hwatch),
      congrArg _ (takeRequest_refused h rfl hunwatch), List.forall_mem_nil _⟩
  · have hsome : (s.row l).holdsSession = true := by
      rw [← Bool.not_eq_false, holdsSession_false_iff]
      exact ha
    refine hservice .notPermitted (serviceRefusal_notPermitted (s := atOwner s l) hm (hholds.trans hsome) ?_)
    rw [atOwner_row_self, freshLease_privilege]
    exact hp
  · exact congrArg _ (takeRequest_refused h rfl (requestReclaim_unformatted (s := atOwner s l) hm
      (serviceRefusal_none (.inr (.inr hm)) ho)))

end Sys2Proof.Proofs
end

section
/-!
PROOFS. The lease's expiry (R56 to R58) and the millisecond of the timebase (R56, R57, R172, R174; log 5).
-/

namespace Sys2Proof.Proofs

open Sys2Proof.Machine Sys2Proof.Safety Sys2Proof.Laws

variable {s : State} {l : Link}

/-! ### Which leases run (R57) -/

theorem leaseRuns_iff :
    s.leaseRuns l = true ↔ (s.row l).state = .opened ∧ (s.link l).held.map Held.kind ≠ some .format := by
  unfold State.leaseRuns
  cases (s.link l).held with
  | none => simp
  | some h => simp

/-- R57: what suspends a lease. -/
theorem leaseRuns_false_iff :
    s.leaseRuns l = false ↔ (s.row l).state ≠ .opened ∨ (s.link l).held.map Held.kind = some .format := by
  rw [← Bool.not_eq_true, leaseRuns_iff, Decidable.not_and_iff_or_not, Decidable.not_not]

theorem leaseExpires_runs (hr : s.running = true) (h : s.leaseRuns l = true) :
    leaseExpires l s = (s.setRow l SessionRow.none).offerNotice l .sessionEnded ((s.row l).number.getD 0)
      (BitVec.ofNat 32 (s.row l).staging.length) :=
  if_pos ⟨hr, h⟩

theorem leaseExpires_suspended (h : s.leaseRuns l = false) : leaseExpires l s = s :=
  if_neg fun hx => by simp [h] at hx

/-! ### The millisecond -/

theorem step_empty (h : s.pending = []) : step s = .next (tick s) := by
  unfold step
  rw [h]

/-- R56, R57: a row after a millisecond, by what its link holds. -/
def tickedRow (r : SessionRow) (k : LinkState) : SessionRow :=
  if r.state = .opened ∧ k.held.map Held.kind ≠ some .format then { r with leaseRemaining := r.leaseRemaining.map (· - 1) } else r

theorem tickLease_eq (s : State) (l : Link) : s.tickLease l = s.setRow l (tickedRow (s.row l) (s.link l)) := by
  unfold State.tickLease tickedRow
  by_cases h : s.leaseRuns l = true
  · rw [if_pos h, if_pos (leaseRuns_iff.1 h)]
  · rw [if_neg h, if_neg (mt leaseRuns_iff.2 h), State.setRow_row_same]

theorem tickOp_eq (s : State) :
    s.tickOp = s.setArray { s.array with opTimer := if s.array.op = none then s.array.opTimer else s.array.opTimer + 1 } := by
  unfold State.tickOp
  cases h : s.array.op with
  | none => simp only [Option.isSome_none, Bool.false_eq_true, if_false, if_true]; rfl
  | some o => simp only [Option.isSome_some, if_true, reduceCtorEq, if_false]

theorem scanPending_iff :
    s.scanPending = true ↔ s.mount.activity = .scan ∧ s.mount.phase = .heads ∧ s.array.op = none := by
  simp [State.scanPending, and_assoc]

theorem tick_runs (hr : s.running = true) (h : ¬ s.scanPending = true) :
    tick s = ((((s.tickLease .p).tickLease .s).tickLink .p).tickLink .s).tickOp := by
  unfold tick
  rw [hr, if_neg (by decide), if_neg h]

theorem tick_stands (hr : s.running = false) : tick s = s := by
  unfold tick
  rw [hr]
  rfl

/-- Settles O10: the expiry by whether the lease runs, then the millisecond. -/
theorem leaseRunsAndExpires : Obligations.LeaseRunsAndExpires := by
  refine ⟨?_, ?_⟩
  · intro l s hr suspended
    refine ⟨fun hn => ?_, fun hs => ?_⟩
    · have hruns : s.leaseRuns l = true := by
        rw [← Bool.not_eq_false, leaseRuns_false_iff]
        exact hn
      exact congrArg Host.Outcome.next (leaseExpires_runs hr hruns)
    · exact congrArg Host.Outcome.next (leaseExpires_suspended (leaseRuns_false_iff.2 hs))
  · intro s hp lease timers
    refine ⟨fun hr hn => ?_, fun hr => ?_⟩
    · rw [step_empty hp, tick_runs hr (mt scanPending_iff.1 hn), tickLease_eq, tickLease_eq, tickOp_eq]
      rfl
    · rw [step_empty hp, tick_stands hr]

end Sys2Proof.Proofs
end

section
/-!
PROOFS. The end of a commit by its MARK (R61, R84, R107, R108, R110, R112, R119).
-/

namespace Sys2Proof.Proofs

open Sys2Proof.Machine Sys2Proof.Safety Sys2Proof.Laws

variable {s t : State} {l : Link} {j : CommitJob} {others : List CommitJob} {ok : Bool}

/-! ### What the apply and the notices leave unchanged -/

theorem directoryAndTable_row (h : DirectoryAndTable s t) (l : Link) : t.row l = s.row l := by
  rw [h.1]
  rfl

theorem directoryAndTable_commit (h : DirectoryAndTable s t) : t.commit = s.commit := by
  rw [h.1]

theorem directoryAndTable_mount (h : DirectoryAndTable s t) : t.mount = s.mount := by
  rw [h.1]

/-- R61: KEY-CHANGED offered to a link for each of these keys. -/
def tellKeys (s : State) (l : Link) (txn : Word) (keys : List Key) : State :=
  keys.foldl (fun u key => u.offerNotice l .keyChanged key txn) s

/-- Offers of notices change the notice queues alone. -/
theorem tellKeys_eq (s : State) (l : Link) (txn : Word) (keys : List Key) :
    tellKeys s l txn keys = { s with notices := (tellKeys s l txn keys).notices } := by
  unfold tellKeys
  induction keys generalizing s with
  | nil => rfl
  | cons key keys ih => exact ih (s.offerNotice l .keyChanged key txn)

theorem tellKeys_row (x : Link) (txn : Word) (keys : List Key) : (tellKeys s l txn keys).row x = s.row x := by
  rw [tellKeys_eq]
  rfl

theorem tellKeys_commit (txn : Word) (keys : List Key) : (tellKeys s l txn keys).commit = s.commit := by
  rw [tellKeys_eq]

theorem tellKeys_mount (txn : Word) (keys : List Key) : (tellKeys s l txn keys).mount = s.mount := by
  rw [tellKeys_eq]

/-- R61: the keys that the session of a row watches. -/
def watchedKeys (r : SessionRow) (keys : List Key) : List Key :=
  if r.state ≠ .none ∧ r.orphaned = false then keys.filter (· ∈ r.watch) else []

theorem keyChanged_eq (s : State) (l : Link) (txn : Word) (keys : List Key) :
    s.keyChanged l txn keys = tellKeys s l.other txn (watchedKeys (s.row l.other) keys) := by
  unfold State.keyChanged watchedKeys
  by_cases h : (s.row l.other).holdsSession = true
  · rw [if_pos h, if_pos (holdsSession_iff.1 h)]
    simp only [List.contains_eq_mem]
    rfl
  · rw [if_neg h, if_neg (mt holdsSession_iff.2 h)]
    rfl

/-! ### The end of the job -/

/-- R107: the MARK is programmed. -/
theorem commitDone_eq (s : State) (hj : j.state.holdsArray = true) :
    let list := (s.row j.link).staging
    let txn := j.txn.getD 0
    let applied := (list.zip j.written).foldl (fun s e => s.applyEntry txn e) s
    s.commitDone j =
      jobEnded (withJoins (tellKeys applied j.link.other txn (watchedKeys (s.row j.link.other) (list.map StagedEntry.key)))
        (j.written.map fun p => p.location.sector)) j 0x00 0 list.length j.saturated := by
  intro list txn applied
  have hframe : DirectoryAndTable s applied := applyEntries_frame txn _ s
  unfold State.commitDone
  dsimp only
  rw [keyChanged_eq, directoryAndTable_row hframe, withJoins_eq, endJob_eq _ _ _ _ hj]
  have hrow : (withJoins (tellKeys applied j.link.other txn (watchedKeys (s.row j.link.other) (list.map StagedEntry.key)))
      (j.written.map fun p => p.location.sector)).row j.link = s.row j.link :=
    (tellKeys_row _ _ _).trans (directoryAndTable_row hframe _)
  rw [hrow]
  rfl

theorem jobEnded_queue (s : State) (j : CommitJob) (code : Byte) (key : Key) (n : Nat) (b : Bool) :
    (jobEnded s j code key n b).commit.queue = s.commit.queue.filter fun x => x.link != j.link := by
  unfold jobEnded atLowWater
  split <;> rfl

/-- R46, R47: no job, an idle reclaimer and no FORMAT claim nothing. -/
theorem nextClaim_none (hq : s.commit.queue = []) (hr : s.reclaim.state = .idle) (hf : s.mount.format = none) : s.nextClaim = none := by
  unfold State.nextClaim State.formatClaim State.reclaimClaim State.commitClaim
  rw [hq, hr, hf]
  simp

/-- Settles O30: the MARK's bytes, the apply, the notices and the joins, then the end of the job and the arbiter. -/
theorem markDoneEndsCommit : Obligations.MarkDoneEndsCommit := by
  intro n count loc j others ok s hr ht hop hq ho hj list T places programmed applied other watched notified ended
  have hprogrammed : s.imageDone (.mark n count) loc = programmed := imageDone_eq s (.mark n count) loc
  have hexec : exec (.programComplete .done ok) s = .next (programmed.commitImageDone j (.mark n count) loc).settle := by
    rw [exec_programComplete hr hop, imageEnds_commit ht hq hj, if_pos rfl, hprogrammed]
  have hcommit : programmed.commit = s.commit := rfl
  have hmount : programmed.mount = s.mount := rfl
  have hrow : programmed.row = s.row := rfl
  clear_value programmed
  have hframe : DirectoryAndTable programmed applied := applyEntries_frame T _ programmed
  have hlast := commitDone_eq programmed (j := { j with written := places, retries := 0 }) (holdsArray_writing hj)
  have hended : programmed.commitImageDone j (.mark n count) loc = ended := by
    refine hlast.trans ?_
    rw [hrow]
    exact jobEnded_congr (j := j) _ _ _ _ rfl rfl rfl
  have hqueue : ended.commit.queue = s.commit.queue.filter fun x => x.link != j.link := by
    have hjoined : (withJoins notified (places.map fun p => p.location.sector)).commit = s.commit :=
      (tellKeys_commit T watched).trans ((directoryAndTable_commit hframe).trans hcommit)
    rw [jobEnded_queue, hjoined]
  have hunit : ended.mount = s.mount := by
    rw [jobEnded_mount]
    exact (tellKeys_mount T watched).trans ((directoryAndTable_mount hframe).trans hmount)
  clear_value ended
  refine ⟨by rw [hexec, hended], fun hothers hidle hformat => State.settle_unclaimed (nextClaim_none ?_ hidle ?_)⟩
  · rw [hqueue, hq, hothers]
    simp
  · rw [hunit, hformat]

end Sys2Proof.Proofs
end

section
/-!
PROOFS. BREAK (R63, R64, R110, R116, R153, R174): the link reset, and its session and job by the state they are in.
-/

namespace Sys2Proof.Proofs

open Sys2Proof.Machine Sys2Proof.Safety Sys2Proof.Laws

variable {s : State} {l : Link} {j : CommitJob}

/-- R153: a queued RESTART reply is gone with Link S; the start stays owed. -/
def brokenRestart : Link → RestartState → RestartState
  | .s, .replyQueued _ => .replyGone
  | _, r => r

theorem breakRestart_eq (s : State) (l : Link) :
    s.breakRestart l = s.setMount { s.mount with restart := brokenRestart l s.mount.restart } := by
  cases l with
  | p => rfl
  | s =>
    unfold State.breakRestart
    generalize hr : s.mount.restart = r
    cases r with
    | replyQueued n => rfl
    | none => simp only [brokenRestart, ← hr]; rfl
    | replyGone => simp only [brokenRestart, ← hr]; rfl

/-- R174: the part with the link reset, before its session is looked at. -/
def linkCleared (s : State) (l : Link) : State :=
  (((s.setRxSpace l true).breakRestart l).resetLink l).setNotices l []

theorem linkCleared_kept :
    (linkCleared s l).row = s.row ∧ (linkCleared s l).commit = s.commit ∧ (linkCleared s l).array = s.array := by
  unfold linkCleared
  rw [breakRestart_eq]
  exact ⟨rfl, rfl, rfl⟩

theorem exec_lineBreak (h : s.linkTakes l = true) : exec (.lineBreak l) s = .next ((linkCleared s l).breakSession l).settle :=
  congrArg Host.Outcome.next (if_pos h)

/-! ### The session at a break (R63, R64, R110) -/

theorem breakSession_none (h : (s.row l).holdsSession = false) : s.breakSession l = s := by
  unfold State.breakSession
  dsimp only
  rw [h]
  rfl

theorem breakSession_opened (h : (s.row l).holdsSession = true) (ho : (s.row l).state = .opened) : s.breakSession l = s.endRow l := by
  unfold State.breakSession
  dsimp only
  rw [h, ho]
  rfl

theorem breakSession_job (h : (s.row l).holdsSession = true) (hc : (s.row l).state = .committing) (hj : s.jobOf l = some j) :
    s.breakSession l = if j.state.runsOn then s.orphanRow l else s.cancelJob l := by
  unfold State.breakSession
  dsimp only
  rw [h, hc, hj]
  rfl

theorem atLowWater_array : (atLowWater s).array = s.array := by
  unfold atLowWater
  split <;> rfl

/-- R110, R116: a cancelled job's row ends, the job leaves the queue, and the reclaimer makes its evaluation. -/
theorem cancelJob_eq (s : State) (l : Link) :
    s.cancelJob l = atLowWater ((s.setRow l SessionRow.none).setQueue (s.commit.queue.filter fun x => x.link != l)) := by
  unfold State.cancelJob
  rw [lowWater_eq]
  rfl

/-- Settles O48: no session, an OPEN one, and a COMMITTING one by the state of its job. -/
theorem breakResetsLink : Obligations.BreakResetsLink := by
  intro l s h start owed cleared r holds breaks
  have hcleared : linkCleared s l = cleared := by
    unfold linkCleared
    rw [breakRestart_eq]
    rfl
  obtain ⟨hrow, hcommit, harray⟩ := linkCleared_kept (s := s) (l := l)
  rw [hcleared] at hrow hcommit harray
  have hbreaks : ∀ t, cleared.breakSession l = t → t.array = s.array → breaks t := by
    intro t ht hta
    refine ⟨?_, fun hten => State.settle_held (by rw [hta]; exact hten)⟩
    rw [exec_lineBreak h, hcleared, ht]
  clear_value cleared
  have hrow : cleared.row l = r := congrFun hrow l
  refine ⟨fun hn => ?_, fun hh ho => ?_, fun hh hc j hj => ?_⟩
  · refine hbreaks _ (breakSession_none ?_) harray
    rw [hrow, ← Bool.not_eq_true, holdsSession_iff]
    exact hn
  · exact hbreaks _ (breakSession_opened (by rw [hrow]; exact holdsSession_iff.2 hh) (by rw [hrow]; exact ho)) harray
  · have hjob : cleared.jobOf l = some j := by
      unfold State.jobOf
      rw [hcommit]
      exact hj
    have hsession := breakSession_job (by rw [hrow]; exact holdsSession_iff.2 hh) (by rw [hrow]; exact hc) hjob
    refine ⟨fun hst => ?_, fun hst => ?_⟩
    · have hruns : j.state.runsOn = true := by rcases hst with hst | hst | hst <;> rw [hst] <;> rfl
      rw [hruns, if_pos rfl, State.orphanRow, hrow] at hsession
      exact hbreaks _ hsession harray
    · have hruns : j.state.runsOn = false := by rcases hst with hst | hst <;> rw [hst] <;> rfl
      rw [hruns, if_neg (by decide), cancelJob_eq, hcommit] at hsession
      exact hbreaks _ hsession (atLowWater_array.trans harray)

end Sys2Proof.Proofs
end

section
/-!
PROOFS. PFAIL_ASSERT (R65, R112, R134, R149, R150, R153, R158): what the part keeps through the whole of it, and what each block's own
step makes of its link, its jobs, the reclaimer and the mount unit.
-/

namespace Sys2Proof.Proofs

open Sys2Proof.Machine Sys2Proof.Safety Sys2Proof.Laws

variable {s t : State} {l x : Link} {j : CommitJob}

/-! ### What the ends of sessions and jobs do not touch -/

/-- The fields that no end of a session or of a job touches in HALTED. -/
structure Untouched where
  pins : Pins
  supply : SupplyState
  mount : MountUnit
  reclaim : Reclaimer
  directory : List DirEntry
  op : Option ArrayOp
  mem : List Host.Cell
  nextTxn : Word

def untouched (s : State) : Untouched :=
  { pins := s.pins, supply := s.supply, mount := s.mount, reclaim := s.reclaim, directory := s.directory, op := s.array.op
    mem := s.array.mem, nextTxn := s.commit.nextTxn }

theorem untouched_iff : untouched t = untouched s ↔
    t.pins = s.pins ∧ t.supply = s.supply ∧ t.mount = s.mount ∧ t.reclaim = s.reclaim ∧ t.directory = s.directory ∧
      t.array.op = s.array.op ∧ t.array.mem = s.array.mem ∧ t.commit.nextTxn = s.commit.nextTxn := by
  simp [untouched]

/-- What the part has of one link. -/
def linkPart (s : State) (x : Link) : LinkState × SessionRow × NoticeQueue :=
  (s.link x, s.row x, s.noticeQueue x)

theorem linkPart_iff : linkPart t x = linkPart s x ↔ t.link x = s.link x ∧ t.row x = s.row x ∧ t.noticeQueue x = s.noticeQueue x := by
  simp [linkPart]

theorem setLink_linkPart (k : LinkState) (h : x ≠ l) : linkPart (s.setLink l k) x = linkPart s x := by
  rw [linkPart_iff, State.setLink_link, if_neg h]
  exact ⟨rfl, rfl, rfl⟩

theorem setRow_linkPart (r : SessionRow) (h : x ≠ l) : linkPart (s.setRow l r) x = linkPart s x := by
  rw [linkPart_iff, State.setRow_row, if_neg h]
  exact ⟨rfl, rfl, rfl⟩

theorem setNotices_linkPart (q : List Notice) (h : x ≠ l) : linkPart (s.setNotices l q) x = linkPart s x := by
  rw [linkPart_iff, State.setNotices_noticeQueue, if_neg h]
  exact ⟨rfl, rfl, rfl⟩

theorem setTenancy_untouched (s : State) (x : Tenancy) : untouched (s.setTenancy x) = untouched s := rfl
theorem setTenancy_linkPart (s : State) (t : Tenancy) : linkPart (s.setTenancy t) x = linkPart s x := rfl
theorem setQueue_untouched (s : State) (q : List CommitJob) : untouched (s.setQueue q) = untouched s := rfl
theorem setQueue_linkPart (s : State) (q : List CommitJob) : linkPart (s.setQueue q) x = linkPart s x := rfl

/-! ### Rows and held FORMATs (R65, R158) -/

/-- R65: an OPEN session is ended. -/
def haltedRow (r : SessionRow) : SessionRow :=
  if r.state = .opened then SessionRow.none else r

/-- R158: a held FORMAT is answered HALTED. -/
def haltedLink (k : LinkState) : LinkState :=
  match k.held with
  | some { kind := .format, sequence := sq } => heldAnswered k (frame sq 0xE1 [0x12])
  | _ => k

theorem haltedLink_format {k : LinkState} {h : Held} (hh : k.held = some h) (hk : h.kind = .format) :
    haltedLink k = heldAnswered k (frame h.sequence 0xE1 [0x12]) := by
  obtain ⟨kind, sq⟩ := h
  subst hk
  unfold haltedLink
  rw [hh]

theorem haltedLink_other {k : LinkState} (hk : k.held.map Held.kind ≠ some .format) : haltedLink k = k := by
  unfold haltedLink
  split
  · rename_i hh
    exact absurd (by rw [hh]; rfl) hk
  · rfl

theorem haltRow_eq (s : State) (l : Link) : s.haltRow l = (s.setLink l (haltedLink (s.link l))).setRow l (haltedRow (s.row l)) := by
  have hrow : ∀ u : State, (if (u.row l).state = .opened then u.endRow l else u) = u.setRow l (haltedRow (u.row l)) := by
    intro u
    unfold haltedRow
    split
    · rfl
    · rw [State.setRow_row_same]
  unfold State.haltRow
  dsimp only
  rw [hrow]
  cases hh : (s.link l).held with
  | none =>
    rw [haltedLink_other (by simp [hh]), State.setLink_link_same]
    rfl
  | some h =>
    obtain ⟨kind, sq⟩ := h
    cases kind with
    | commit =>
      rw [haltedLink_other (by simp [hh]), State.setLink_link_same]
      rfl
    | format =>
      rw [haltedLink_format hh rfl, Option.map_some]
      dsimp only
      rw [placeHeld_some hh]
      rfl

theorem haltRow_unheld (h : (s.link l).held = none) : s.haltRow l = s.setRow l (haltedRow (s.row l)) := by
  rw [haltRow_eq, haltedLink_other (by simp [h]), State.setLink_link_same]

theorem haltRow_untouched (s : State) (l : Link) : untouched (s.haltRow l) = untouched s := by
  rw [haltRow_eq]
  rfl

theorem haltRow_linkPart (h : x ≠ l) : linkPart (s.haltRow l) x = linkPart s x := by
  rw [haltRow_eq, setRow_linkPart _ h, setLink_linkPart _ h]

theorem haltRow_commit (s : State) (l : Link) : (s.haltRow l).commit = s.commit := by
  rw [haltRow_eq]
  rfl

/-- Both rows: each link as its own step leaves it. -/
theorem haltRows_linkPart (s : State) (l : Link) :
    linkPart ((s.haltRow .p).haltRow .s) l = (haltedLink (s.link l), haltedRow (s.row l), s.noticeQueue l) := by
  cases l with
  | p =>
    rw [haltRow_linkPart (by decide), haltRow_eq]
    rfl
  | s =>
    rw [haltRow_eq, haltRow_eq]
    rfl

/-! ### Jobs (R110, R112) -/

theorem jobReported_untouched (s : State) (j : CommitJob) (code : Byte) (key : Key) (n : Nat) (b : Bool) :
    untouched (jobReported s j code key n b) = untouched s := by
  unfold jobReported
  dsimp only
  by_cases ho : (s.row j.link).orphaned = true
  · rw [if_pos ho]; rfl
  · rw [if_neg ho]
    by_cases hm : s.mount.mode = .halted
    · rw [if_pos hm]; cases (s.link j.link).held <;> rfl
    · rw [if_neg hm]; cases (s.link j.link).held <;> rfl

theorem jobReported_linkPart (code : Byte) (key : Key) (n : Nat) (b : Bool) (h : x ≠ j.link) :
    linkPart (jobReported s j code key n b) x = linkPart s x := by
  unfold jobReported
  dsimp only
  by_cases ho : (s.row j.link).orphaned = true
  · rw [if_pos ho, setRow_linkPart _ h]
    exact setNotices_linkPart _ h
  · rw [if_neg ho]
    by_cases hm : s.mount.mode = .halted
    · rw [if_pos hm, setRow_linkPart _ h]
      cases (s.link j.link).held with
      | none => rfl
      | some _ => exact setLink_linkPart _ h
    · rw [if_neg hm, setRow_linkPart _ h]
      cases (s.link j.link).held with
      | none => rfl
      | some _ => exact setLink_linkPart _ h

/-- In HALTED no low-water cycle is wanted. -/
theorem atLowWater_halted (hm : s.mount.mode = .halted) : atLowWater s = s := by
  unfold atLowWater CycleWanted
  rw [hm]
  simp

theorem jobEnded_halted (hm : s.mount.mode = .halted) (j : CommitJob) (code : Byte) (key : Key) (n : Nat) (b : Bool) :
    jobEnded s j code key n b =
      ((jobReported s j code key n b).setQueue (s.commit.queue.filter fun x => x.link != j.link)).setTenancy .none := by
  have hmode : (jobReported s j code key n b).mount.mode = .halted := by rw [jobReported_mount, hm]
  exact congrArg (State.setTenancy · .none) (atLowWater_halted hmode)

/-- R112: whether the job's program is in flight. -/
def programs (s : State) (j : CommitJob) : Bool :=
  j.state.holdsArray && s.array.op.isSome

theorem programs_iff (s : State) (j : CommitJob) :
    programs s j = ((j.state == .validating || j.state == .writing) && s.array.op.isSome) := by
  unfold programs
  cases j.state <;> rfl

/-- The state that a job's report is made from: for HALTED its written images are waste. -/
def haltWaste (s : State) (j : CommitJob) : State :=
  if j.granted then withWaste s j.written else s

/-- Waste is a matter of the sector table alone. -/
theorem haltWaste_eq (s : State) (j : CommitJob) : ∃ t, haltWaste s j = s.setTable t := by
  unfold haltWaste
  split
  · exact ⟨_, rfl⟩
  · exact ⟨s.array.table, rfl⟩

/-- R110, R112: the code of a job that PFAIL ends. -/
def haltCode (j : CommitJob) : Byte :=
  if j.granted then 0x12 else 0x61

/-- R112: but for the array's tenancy, a job that is not programming is reported and leaves the queue. -/
theorem haltJob_ends (hm : s.mount.mode = .halted) (hp : programs s j = false) :
    (s.haltJob j).setTenancy .none =
      ((jobReported (haltWaste s j) j (haltCode j) 0 0 false).setQueue (s.commit.queue.filter fun x => x.link != j.link)).setTenancy
        .none := by
  have hnot : ¬ (j.state.holdsArray = true ∧ s.array.op.isSome = true) := by
    rw [← Bool.and_eq_true]
    exact Bool.eq_false_iff.1 hp
  unfold State.haltJob haltWaste haltCode
  rw [if_neg hnot, endJob_setTenancy]
  cases j.granted with
  | true => exact jobEnded_halted (s := withWaste s j.written) hm j _ _ _ _
  | false => exact jobEnded_halted hm j _ _ _ _

theorem haltJob_programs (hp : programs s j = true) : s.haltJob j = s :=
  if_pos (Bool.and_eq_true_iff.1 hp)

theorem haltJob_untouched (hm : s.mount.mode = .halted) (j : CommitJob) : untouched (s.haltJob j) = untouched s := by
  cases hp : programs s j with
  | true => rw [haltJob_programs hp]
  | false =>
    obtain ⟨w, hw⟩ := haltWaste_eq s j
    rw [← setTenancy_untouched (s.haltJob j) .none, haltJob_ends hm hp, setTenancy_untouched, setQueue_untouched,
      jobReported_untouched, hw]
    rfl

theorem haltJob_linkPart (hm : s.mount.mode = .halted) (h : x ≠ j.link) : linkPart (s.haltJob j) x = linkPart s x := by
  cases hp : programs s j with
  | true => rw [haltJob_programs hp]
  | false =>
    obtain ⟨w, hw⟩ := haltWaste_eq s j
    rw [← setTenancy_linkPart (s.haltJob j) .none, haltJob_ends hm hp, setTenancy_linkPart, setQueue_linkPart,
      jobReported_linkPart _ _ _ _ h, hw]
    rfl

theorem haltJob_queue (hm : s.mount.mode = .halted) (j : CommitJob) :
    (s.haltJob j).commit.queue = s.commit.queue.filter fun x => programs s j || x.link != j.link := by
  cases hp : programs s j with
  | true =>
    rw [haltJob_programs hp]
    exact (List.filter_eq_self.2 fun x _ => by rw [Bool.true_or]).symm
  | false =>
    simp only [Bool.false_or]
    rw [← State.setTenancy_commit (s.haltJob j) .none, haltJob_ends hm hp]
    rfl

/-- R65, R112: in HALTED the held COMMIT is answered and the row ended. -/
theorem haltJob_answers {h : Held} (hm : s.mount.mode = .halted) (hp : programs s j = false) (ho : (s.row j.link).orphaned = false)
    (hh : (s.link j.link).held = some h) (hk : h.kind = .commit) :
    (s.haltJob j).row j.link = SessionRow.none ∧
    (s.haltJob j).link j.link = heldAnswered (s.link j.link) (frame h.sequence 0xC0
      (haltCode j :: [0, 0] ++ be32 (j.txn.getD 0) ++ [0, 0])) := by
  have hreport : jobReported (haltWaste s j) j (haltCode j) 0 0 false =
      ((haltWaste s j).setLink j.link (heldAnswered (s.link j.link) (frame h.sequence 0xC0
        (haltCode j :: [0, 0] ++ be32 (j.txn.getD 0) ++ [0, 0])))).setRow j.link SessionRow.none := by
    obtain ⟨w, hw⟩ := haltWaste_eq s j
    rw [hw]
    have hrow : (s.setTable w).row j.link = s.row j.link := rfl
    have hlink : (s.setTable w).link j.link = s.link j.link := rfl
    unfold jobReported
    dsimp only
    rw [hrow, hlink, ho, if_neg (by decide), if_pos (show (s.setTable w).mount.mode = .halted from hm), hh]
    dsimp only
    rw [hk]
    rfl
  rw [← State.setTenancy_row (s.haltJob j) .none, ← State.setTenancy_link (s.haltJob j) .none, haltJob_ends hm hp, hreport]
  simp

/-! ### The queue of jobs (R89, R112) -/

theorem mode_of_untouched (h : untouched t = untouched s) (hm : s.mount.mode = .halted) : t.mount.mode = .halted := by
  rw [show t.mount = s.mount from congrArg Untouched.mount h, hm]

theorem programs_of_untouched (h : untouched t = untouched s) : programs t = programs s := by
  funext j
  unfold programs
  rw [show t.array.op = s.array.op from congrArg Untouched.op h]

theorem haltList_untouched (jobs : List CommitJob) (hm : s.mount.mode = .halted) :
    untouched (jobs.foldl State.haltJob s) = untouched s := by
  induction jobs generalizing s with
  | nil => rfl
  | cons j jobs ih =>
    have hj := haltJob_untouched hm j
    exact (ih (mode_of_untouched hj hm)).trans hj

theorem haltList_linkPart {jobs : List CommitJob} (hm : s.mount.mode = .halted) (h : ∀ j ∈ jobs, x ≠ j.link) :
    linkPart (jobs.foldl State.haltJob s) x = linkPart s x := by
  induction jobs generalizing s with
  | nil => rfl
  | cons j jobs ih =>
    rw [List.forall_mem_cons] at h
    exact (ih (mode_of_untouched (haltJob_untouched hm j) hm) h.2).trans (haltJob_linkPart hm h.1)

theorem haltList_queue (jobs : List CommitJob) (hm : s.mount.mode = .halted) :
    (jobs.foldl State.haltJob s).commit.queue =
      s.commit.queue.filter fun x => jobs.all fun j => programs s j || x.link != j.link := by
  induction jobs generalizing s with
  | nil => exact (List.filter_eq_self.2 fun _ _ => rfl).symm
  | cons j jobs ih =>
    have hj := haltJob_untouched hm j
    rw [List.foldl_cons, ih (mode_of_untouched hj hm), haltJob_queue hm, List.filter_filter, programs_of_untouched hj]
    simp only [List.all_cons, Bool.and_comm]

/-- R89: a link has one job at most. -/
theorem job_unique {k : CommitJob} (hq : QueueLaw s) (hj : j ∈ s.commit.queue) (hk : k ∈ s.commit.queue) (he : j.link = k.link) :
    j = k := by
  obtain ⟨before, after, hsplit⟩ := List.append_of_mem hj
  rw [QueueLaw, hsplit, List.pairwise_append, List.pairwise_cons] at hq
  obtain ⟨-, ⟨hafter, -⟩, hbefore⟩ := hq
  rw [hsplit, List.mem_append, List.mem_cons] at hk
  rcases hk with hk | hk | hk
  · exact absurd he.symm (hbefore k hk j List.mem_cons_self)
  · exact hk.symm
  · exact absurd he (hafter k hk)

/-- R89, R112: where no two jobs are of one link, those that program stay. -/
theorem haltJobs_queue (hm : s.mount.mode = .halted) (hq : QueueLaw s) : s.haltJobs.commit.queue = s.commit.queue.filter (programs s) := by
  rw [State.haltJobs, haltList_queue _ hm]
  refine List.filter_congr fun x hx => ?_
  rw [Bool.eq_iff_iff, List.all_eq_true]
  constructor
  · intro hall
    simpa using hall x hx
  · intro hp j hj
    by_cases he : j.link = x.link
    · rw [job_unique hq hj hx he, hp, Bool.true_or]
    · simp [Ne.symm he]

/-- R89: a link's job is the only one that touches its part. -/
theorem haltJobs_linkPart_of_mem (hm : s.mount.mode = .halted) (hq : QueueLaw s) (hj : j ∈ s.commit.queue) :
    ∃ u, untouched u = untouched s ∧ linkPart u j.link = linkPart s j.link ∧
      linkPart s.haltJobs j.link = linkPart (u.haltJob j) j.link := by
  obtain ⟨before, after, hsplit⟩ := List.append_of_mem hj
  rw [QueueLaw, hsplit, List.pairwise_append, List.pairwise_cons] at hq
  obtain ⟨-, ⟨hafter, -⟩, hbefore⟩ := hq
  have hu := haltList_untouched before hm
  have hum := mode_of_untouched hu hm
  refine ⟨before.foldl State.haltJob s, hu,
    haltList_linkPart hm fun x hx => (hbefore x hx j List.mem_cons_self).symm, ?_⟩
  rw [State.haltJobs, hsplit, List.foldl_append, List.foldl_cons]
  exact haltList_linkPart (mode_of_untouched (haltJob_untouched hum j) hum) fun x hx => hafter x hx

/-! ### The reclaimer and the mount unit (R134, R149, R158) -/

/-- R134: the claims withdrawn, forced and requested clear. -/
def haltedReclaimer (r : Reclaimer) : Reclaimer :=
  let claims := r.state = .claimMove ∨ r.state = .claimErase
  { r with forced := false, requested := false, state := if claims then .idle else r.state, victim := if claims then none else r.victim }

theorem haltReclaimer_eq (s : State) : s.haltReclaimer = s.setReclaim (haltedReclaimer s.reclaim) := by
  unfold State.haltReclaimer haltedReclaimer
  cases hr : s.reclaim.state <;> simp [hr]

theorem haltMount_idle (h : s.mount.activity = .none) : s.haltMount = s.setFormat none := by
  unfold State.haltMount
  rw [h]

/-- R149, R158: a scan or a format with an operation in flight goes on to its end. -/
theorem haltMount_flying (h : s.mount.activity ≠ .none) (ho : s.array.op ≠ none) : s.haltMount = s := by
  unfold State.haltMount
  rw [Option.isSome_iff_ne_none.2 ho]
  split
  · rfl
  · rfl
  · exact absurd ‹_› h

theorem haltMount_stops (h : s.mount.activity ≠ .none) (ho : s.array.op = none) :
    s.haltMount = if s.mount.activity = .scan then s.scanStops else s.formatStops := by
  unfold State.haltMount
  rw [ho]
  cases ha : s.mount.activity with
  | none => exact absurd ha h
  | scan => rfl
  | format => rfl

/-- The mount unit's step sets its own record and the tenancy; the mode and the owed RESTART stand. -/
theorem haltMount_frame (s : State) :
    ∃ m x, s.haltMount = (s.setMount m).setTenancy x ∧ m.mode = s.mount.mode ∧ m.restart = s.mount.restart := by
  by_cases ha : s.mount.activity = .none
  · exact ⟨{ s.mount with format := none }, s.array.tenancy, haltMount_idle ha, rfl, rfl⟩
  · by_cases ho : s.array.op = none
    · rw [haltMount_stops ha ho]
      split
      · exact ⟨_, .none, rfl, rfl, rfl⟩
      · exact ⟨_, .none, rfl, rfl, rfl⟩
    · exact ⟨s.mount, s.array.tenancy, haltMount_flying ha ho, rfl, rfl⟩

theorem haltMount_activities (s : State) :
    (s.mount.activity = .none → s.haltMount.mount.activity = .none ∧ s.haltMount.mount.format = none) ∧
    (s.mount.activity ≠ .none → s.array.op ≠ none →
      s.haltMount.mount.activity = s.mount.activity ∧ s.haltMount.mount.format = s.mount.format) ∧
    (s.mount.activity ≠ .none → s.array.op = none → s.haltMount.mount.activity = .none ∧ s.haltMount.array.tenancy = .none) ∧
    (s.mount.activity = .format → s.array.op = none → s.haltMount.mount.format = none) := by
  refine ⟨fun ha => ?_, fun ha ho => ?_, fun ha ho => ?_, fun ha ho => ?_⟩
  · rw [haltMount_idle ha]
    exact ⟨ha, rfl⟩
  · rw [haltMount_flying ha ho]
    exact ⟨rfl, rfl⟩
  · rw [haltMount_stops ha ho]
    split <;> exact ⟨rfl, rfl⟩
  · rw [haltMount_stops (by simp [ha]) ho, if_neg (by simp [ha])]
    rfl

/-! ### The whole of PFAIL -/

/-- R150: the supply state and the mode HALTED, no RESTART owed. -/
def haltBegun (s : State) : State :=
  ((s.setPfailPin true).setSupply .halted).setMount { s.mount with mode := .halted, restart := .none }

/-- R65, R158: both rows and both held FORMATs. -/
def rowsHalted (s : State) : State :=
  ((haltBegun s).haltRow .p).haltRow .s

/-- R112: then the jobs. -/
def jobsHalted (s : State) : State :=
  (rowsHalted s).haltJobs

theorem rowsHalted_untouched : untouched (rowsHalted s) = untouched (haltBegun s) := by
  unfold rowsHalted
  rw [haltRow_untouched, haltRow_untouched]

theorem rowsHalted_mode : (rowsHalted s).mount.mode = .halted :=
  mode_of_untouched rowsHalted_untouched rfl

theorem rowsHalted_commit : (rowsHalted s).commit = s.commit := by
  unfold rowsHalted
  rw [haltRow_commit, haltRow_commit]
  rfl

theorem rowsHalted_queueLaw (hq : QueueLaw s) : QueueLaw (rowsHalted s) := by
  rw [QueueLaw, rowsHalted_commit]
  exact hq

theorem rowsHalted_linkPart : linkPart (rowsHalted s) l = (haltedLink (s.link l), haltedRow (s.row l), s.noticeQueue l) :=
  haltRows_linkPart (haltBegun s) l

theorem programs_rowsHalted : programs (rowsHalted s) = programs s :=
  programs_of_untouched (s := haltBegun s) rowsHalted_untouched

theorem jobsHalted_untouched : untouched (jobsHalted s) = untouched (haltBegun s) :=
  (haltList_untouched _ rowsHalted_mode).trans rowsHalted_untouched

theorem jobsHalted_queue (hq : QueueLaw s) : (jobsHalted s).commit.queue = s.commit.queue.filter (programs s) := by
  rw [jobsHalted, haltJobs_queue rowsHalted_mode (rowsHalted_queueLaw hq), rowsHalted_commit, programs_rowsHalted]

/-- On a link without a job. -/
theorem jobsHalted_free (h : ∀ j ∈ s.commit.queue, j.link ≠ l) :
    (jobsHalted s).link l = haltedLink (s.link l) ∧ (jobsHalted s).row l = haltedRow (s.row l) ∧
    (jobsHalted s).noticeQueue l = s.noticeQueue l := by
  have hjobs : linkPart (jobsHalted s) l = linkPart (rowsHalted s) l := by
    refine haltList_linkPart rowsHalted_mode fun j hj => ?_
    rw [rowsHalted_commit] at hj
    exact (h j hj).symm
  simpa [linkPart] using hjobs.trans rowsHalted_linkPart

/-- On the link of a job, its row COMMITTING and its COMMIT held: a program in flight is left to its end, any other job answered. -/
theorem jobsHalted_job {h : Held} (hq : QueueLaw s) (hj : j ∈ s.commit.queue) (hc : (s.row j.link).state = .committing)
    (hh : (s.link j.link).held = some h) (hk : h.kind = .commit) :
    (programs s j = true → (jobsHalted s).row j.link = s.row j.link ∧ (jobsHalted s).link j.link = s.link j.link) ∧
    (programs s j = false → (s.row j.link).orphaned = false →
      (jobsHalted s).row j.link = SessionRow.none ∧
      (jobsHalted s).link j.link = heldAnswered (s.link j.link) (frame h.sequence 0xC0
        (haltCode j :: [0, 0] ++ be32 (j.txn.getD 0) ++ [0, 0]))) := by
  have hj' : j ∈ (rowsHalted s).commit.queue := by
    rw [rowsHalted_commit]
    exact hj
  have hstands : linkPart (rowsHalted s) j.link = linkPart s j.link := by
    rw [rowsHalted_linkPart, haltedLink_other (by simp [hh, hk]), haltedRow, if_neg (by simp [hc])]
    rfl
  obtain ⟨u, hu, hpart, hend⟩ := haltJobs_linkPart_of_mem rowsHalted_mode (rowsHalted_queueLaw hq) hj'
  have hm : u.mount.mode = .halted := mode_of_untouched hu rowsHalted_mode
  have hp : programs u j = programs s j := by rw [programs_of_untouched hu, programs_rowsHalted]
  obtain ⟨hulink, hurow, -⟩ := linkPart_iff.1 (hpart.trans hstands)
  obtain ⟨hlink, hrow, -⟩ := linkPart_iff.1 hend
  rw [jobsHalted, hlink, hrow, ← hulink, ← hurow, ← hp]
  refine ⟨fun hruns => ?_, fun hends ho => ?_⟩
  · rw [haltJob_programs hruns]
    exact ⟨rfl, rfl⟩
  · exact haltJob_answers hm hends ho (by rw [hulink, hh]) hk

/-- R134: then the reclaimer; the state that the mount unit's step is taken from. -/
def reclaimerHalted (s : State) : State :=
  (jobsHalted s).setReclaim (haltedReclaimer s.reclaim)

theorem exec_pfailAssert (hr : s.running = true) (hs : s.supply = .normal) :
    exec .pfailAssert s = .next (reclaimerHalted s).haltMount := by
  obtain ⟨-, -, -, hreclaim, -⟩ := untouched_iff.1 (jobsHalted_untouched (s := s))
  replace hreclaim : (jobsHalted s).reclaim = s.reclaim := hreclaim
  rw [reclaimerHalted, ← hreclaim, ← haltReclaimer_eq]
  exact congrArg Host.Outcome.next (if_pos ⟨hr, hs⟩)

/-- R150: what stands through the whole of PFAIL, and the mode, the supply state and the owed RESTART. -/
theorem pfail_stands (s : State) :
    let t := (reclaimerHalted s).haltMount
    (t.mount.mode = .halted ∧ t.supply = .halted ∧ t.mount.restart = .none ∧ t.pins = { s.pins with pfailAsserted := true } ∧
      t.array.op = s.array.op ∧ t.array.mem = s.array.mem ∧ t.directory = s.directory) ∧
    t.reclaim = haltedReclaimer s.reclaim ∧ t.commit.nextTxn = s.commit.nextTxn := by
  obtain ⟨hpins, hsupply, hmount, -, hdir, hop, hmem, htxn⟩ := untouched_iff.1 (jobsHalted_untouched (s := s))
  obtain ⟨m, x, ht, hmode, hrestart⟩ := haltMount_frame (reclaimerHalted s)
  dsimp only
  rw [ht]
  rw [reclaimerHalted, State.setReclaim_mount, hmount] at hmode hrestart
  unfold reclaimerHalted
  generalize jobsHalted s = u at *
  exact ⟨⟨hmode, hsupply, hrestart, hpins, hop, hmem, hdir⟩, rfl, htxn⟩

/-- Queue and links are as the jobs' step leaves them. -/
theorem pfail_links (s : State) :
    (reclaimerHalted s).haltMount.commit = (jobsHalted s).commit ∧
    ∀ l, linkPart (reclaimerHalted s).haltMount l = linkPart (jobsHalted s) l := by
  obtain ⟨m, x, ht, -, -⟩ := haltMount_frame (reclaimerHalted s)
  rw [ht, reclaimerHalted]
  generalize jobsHalted s = u
  exact ⟨rfl, fun _ => rfl⟩

/-- R65, R134: in a part at rest. -/
theorem pfail_atRest (hq : Quiet s) (ha : s.mount.activity = .none) (hp : (s.link .p).held = none) (hs : (s.link .s).held = none) :
    (reclaimerHalted s).haltMount =
      { s with
        pins := { s.pins with pfailAsserted := true }
        supply := .halted
        mount := { s.mount with mode := .halted }
        sessions := { p := haltedRow s.sessions.p, s := haltedRow s.sessions.s }
        reclaim := { s.reclaim with forced := false, requested := false } } := by
  obtain ⟨hqueue, hidle, hformat, hrestart⟩ := hq
  have hjobs : jobsHalted s = rowsHalted s := by
    unfold jobsHalted State.haltJobs
    rw [rowsHalted_commit, hqueue]
    rfl
  have hreclaim : haltedReclaimer s.reclaim = { s.reclaim with forced := false, requested := false } := by
    unfold haltedReclaimer
    simp [hidle]
  have hunit : ({ s.mount with mode := .halted, restart := .none, format := none } : MountUnit) = { s.mount with mode := .halted } := by
    rw [← hformat, ← hrestart]
  have hrows : rowsHalted s = ((haltBegun s).setRow .p (haltedRow (s.row .p))).setRow .s (haltedRow (s.row .s)) := by
    unfold rowsHalted
    rw [haltRow_unheld (s := haltBegun s) hp, haltRow_unheld (s := (haltBegun s).setRow .p _) hs]
    rfl
  have hactivity : (reclaimerHalted s).mount.activity = .none := by
    rw [reclaimerHalted, hjobs, hrows]
    exact ha
  rw [haltMount_idle hactivity, reclaimerHalted, hjobs, hrows, hreclaim, ← hunit]
  rfl

/-- Settles O52: what stands, the reclaimer, the mount unit, the queue and the links one after another, then the part at rest. -/
theorem pfailHaltsPart : Obligations.PfailHaltsPart := by
  intro s hr hs
  rw [exec_pfailAssert hr hs]
  refine ⟨⟨_, rfl, ?_⟩, fun hq _ ha hp hs => congrArg Host.Outcome.next (pfail_atRest hq ha hp hs)⟩
  obtain ⟨hstands, hreclaim, htxn⟩ := pfail_stands s
  obtain ⟨hcommit, hparts⟩ := pfail_links s
  obtain ⟨-, -, hmount, -, -, hop, -, -⟩ := untouched_iff.1 (jobsHalted_untouched (s := s))
  have hactivities := haltMount_activities (reclaimerHalted s)
  rw [show (reclaimerHalted s).mount = _ from hmount, show (reclaimerHalted s).array.op = _ from hop] at hactivities
  obtain ⟨hidle, hflying, hstops, hformat⟩ := hactivities
  refine ⟨hstands, hreclaim, hidle, hflying, hstops, hformat, htxn, fun hq => ?_⟩
  intro runs
  have hruns : programs s = runs := funext (programs_iff s)
  refine ⟨by rw [hcommit, jobsHalted_queue hq, hruns], ?_⟩
  intro l r k
  obtain ⟨hlink, hrow, hnotices⟩ := linkPart_iff.1 (hparts l)
  refine ⟨fun hfree => ?_, ?_⟩
  · obtain ⟨hlinkFree, hrowFree, hnoticesFree⟩ := jobsHalted_free hfree
    rw [hlink, hrow, hlinkFree, hrowFree]
    exact ⟨rfl, hnotices.trans hnoticesFree, fun h hh hk => haltedLink_format hh hk, fun hk => haltedLink_other hk⟩
  · rintro j hj rfl hc h hh hk
    obtain ⟨hprograms, hends⟩ := jobsHalted_job hq hj hc hh hk
    rw [hlink, hrow, ← hruns]
    refine ⟨hprograms, fun hst ho => ?_⟩
    have hnot : programs s j = false := by
      unfold programs
      rcases hst with hst | hst <;> rw [hst] <;> rfl
    exact hends hnot ho

end Sys2Proof.Proofs
end

section
/-!
PROOFS. The staging requests: from the link to their owners, and what the common checks refuse (R70).
-/

namespace Sys2Proof.Proofs

open Sys2Proof.Machine Sys2Proof.Safety Sys2Proof.Laws

variable {s : State} {l : Link} {sq code : Byte} {key : Key} {expected : Option Word} {delta : Word} {bytes body : List Byte} {p : Privilege}
  {k : Option Key} {r : Result}

/-! ### From the link to the owners -/

theorem exec_put (h : PassesFree s l sq) (hlen : body.length ≤ 224) :
    exec (.put l sq key code expected body) s = .next (requestPut l sq key code expected body (atOwner s l)) := by
  have hfits : requestFits (.put key code expected body) = true := decide_eq_true hlen
  show Host.Outcome.next (takeRequest l sq .put (requestFits (.put key code expected body)) _ s) = _
  rw [hfits, takeRequest_free h]

theorem exec_append (h : PassesFree s l sq) (hlen : bytes.length ≤ 224) :
    exec (.append l sq key bytes) s = .next (requestAppend l sq key bytes (atOwner s l)) := by
  have hfits : requestFits (.append key bytes) = true := decide_eq_true hlen
  show Host.Outcome.next (takeRequest l sq .append (requestFits (.append key bytes)) _ s) = _
  rw [hfits, takeRequest_free h]

section

variable (h : PassesFree s l sq)
include h

theorem exec_add : exec (.add l sq key delta) s = .next (requestAdd l sq key delta (atOwner s l)) :=
  congrArg Host.Outcome.next (takeRequest_free h .add (requestAdd l sq key delta))

theorem exec_delete : exec (.delete l sq key expected) s = .next (requestDelete l sq key expected (atOwner s l)) :=
  congrArg Host.Outcome.next (takeRequest_free h .delete (requestDelete l sq key expected))

theorem exec_drop : exec (.drop l sq key) s = .next (requestDrop l sq key (atOwner s l)) :=
  congrArg Host.Outcome.next (takeRequest_free h .drop (requestDrop l sq key))

theorem exec_staged : exec (.staged l sq) s = .next (requestStaged l sq (atOwner s l)) :=
  congrArg Host.Outcome.next (takeRequest_free h .staged (requestStaged l sq))

theorem exec_abort : exec (.abort l sq) s = .next (requestAbort l sq (atOwner s l)) :=
  congrArg Host.Outcome.next (takeRequest_free h .abort (requestAbort l sq))

end

theorem openWith_atOwner (ho : OpenWith (s.row l) p) : OpenWith ((atOwner s l).row l) p := by
  obtain ⟨hst, horph, hpriv⟩ := ho
  rw [atOwner_row_self]
  exact ⟨(freshLease_state _).trans hst, (freshLease_orphaned _).trans horph, (freshLease_privilege _).trans hpriv⟩

theorem privilegeOf_openWith (ho : OpenWith (s.row l) p) : s.privilegeOf l = p := by
  obtain ⟨-, -, hpriv⟩ := ho
  unfold State.privilegeOf
  rw [hpriv]
  rfl

/-! ### The common checks (R70) -/

theorem stagingRefusal_mode (h : stagingModeRefusal s.mount.mode = some r) : stagingRefusal s l k = some r := by
  unfold stagingRefusal
  rw [h]

/-- R70: what is checked of a request in READY whose link has a session. -/
theorem stagingRefusal_session (hm : s.mount.mode = .ready) (hh : (s.row l).holdsSession = true) (k : Option Key) :
    stagingRefusal s l k =
      if (s.row l).privilege = some .read then some .notPermitted
      else if (s.row l).state = .committing then some .busy
      else if k.any fun k => !keyInRange k then some .badKey
      else none := by
  unfold stagingRefusal
  rw [hm]
  dsimp only [stagingModeRefusal]
  rw [hh]
  rfl

/-- R70: STAGED and ABORT pass the checks wherever the session does. -/
theorem stagingRefusal_keyless (hm : s.mount.mode = .ready) (ho : OpenWith (s.row l) p) (hp : p ≠ .read) :
    stagingRefusal s l none = none := by
  obtain ⟨hst, horph, hpriv⟩ := ho
  rw [stagingRefusal_session hm (holdsSession_iff.2 ⟨by simp [hst], horph⟩), if_neg (by simpa [hpriv] using hp), if_neg (by simp [hst])]
  rfl

/-- The staging requests, each with the kind of its reply, the length of its fixed part and whether it carries a key. -/
def stagingRequests (l : Link) (sq code : Byte) (key : Key) (expected : Option Word) (delta : Word) (bytes : List Byte) :
    List (Instr × Byte × Nat × Bool) :=
  [(.put l sq key code expected bytes, 0xB0, 5, true), (.append l sq key bytes, 0xB1, 3, true),
    (.add l sq key delta, 0xB2, 5, true), (.delete l sq key expected, 0xB3, 5, true), (.drop l sq key, 0xB4, 5, true),
    (.staged l sq, 0xB5, 1, false), (.abort l sq, 0xB6, 1, false)]

/-- R70, R183: each staging request answers what the common checks refuse it for, and nothing changes. -/
theorem stagingRequests_refused (h : PassesFree s l sq) (hlen : bytes.length ≤ 224) :
    ∀ x ∈ stagingRequests l sq code key expected delta bytes,
      stagingRefusal (atOwner s l) l (if x.2.2.2 = true then some key else none) = some r →
      exec x.1 s = .next (refusedWith s l sq x.2.1 r.code x.2.2.1) := by
  have hkeyed := staging_refused (s := atOwner s l) (l := l) (sq := sq) (key := key) (cls := code) (expected := expected)
    (delta := delta) (bytes := bytes) (r := r)
  simp only [stagingRequests, List.forall_mem_cons]
  refine ⟨fun hr => ?_, fun hr => ?_, fun hr => ?_, fun hr => ?_, fun hr => ?_, fun hr => ?_, fun hr => ?_, List.forall_mem_nil _⟩
  · obtain ⟨hput, -⟩ := hkeyed hr
    rw [exec_put h hlen, hput, refuse_atOwner]
    rfl
  · obtain ⟨-, happend, -⟩ := hkeyed hr
    rw [exec_append h hlen, happend, refuse_atOwner]
    rfl
  · obtain ⟨-, -, hadd, -⟩ := hkeyed hr
    rw [exec_add h, hadd, refuse_atOwner]
    rfl
  · obtain ⟨-, -, -, hdelete, -⟩ := hkeyed hr
    rw [exec_delete h, hdelete, refuse_atOwner]
    rfl
  · obtain ⟨-, -, -, -, hdrop⟩ := hkeyed hr
    rw [exec_drop h, hdrop, refuse_atOwner]
    rfl
  · obtain ⟨hstaged, -⟩ := stagedAbort_refused (sq := sq) hr
    rw [exec_staged h, hstaged, refuse_atOwner]
    rfl
  · obtain ⟨-, habort⟩ := stagedAbort_refused (sq := sq) hr
    rw [exec_abort h, habort, refuse_atOwner]
    rfl

/-- Settles O23: one outcome of the common checks after another. -/
theorem stagingRefusedInOrder : Obligations.StagingRefusedInOrder := by
  intro l sq code key expected delta bytes s h hlen x hx row holds refused
  have hrefuses : ∀ r : Result, stagingRefusal (atOwner s l) l (if x.2.2.2 = true then some key else none) = some r → refused r.code :=
    fun r => stagingRequests_refused h hlen x hx
  have hsession := fun (hm : s.mount.mode = .ready) (hh : holds) => stagingRefusal_session (s := atOwner s l) (l := l) hm
    (by rw [atOwner_row_self, freshLease_holds]; exact holdsSession_iff.2 hh)
  simp only [atOwner_row_self, freshLease_privilege, freshLease_state] at hsession
  refine ⟨fun hm => hrefuses .notReady (stagingRefusal_mode ?_), fun hm => hrefuses .readOnly (stagingRefusal_mode ?_),
    fun hm hh => hrefuses .noSession (stagingRefusal_noSession (s := atOwner s l) hm ?_ _), fun hm hh hp => hrefuses .notPermitted ?_,
    fun hm hh hp hc => hrefuses .busy ?_, fun hm hh hp hc hkey hbad => hrefuses .badKey ?_⟩
  · rw [atOwner_mount]
    rcases hm with hm | hm | hm <;> rw [hm] <;> rfl
  · rw [atOwner_mount, hm]
    rfl
  · rw [atOwner_row_self, freshLease_holds, ← Bool.not_eq_true, holdsSession_iff]
    exact hh
  · rw [hsession hm hh, if_pos hp]
  · rw [hsession hm hh, if_neg hp, if_pos hc]
  · have hany : (some key).any (fun k => !keyInRange k) = true := by
      rw [Option.any_some, keyInRange_false_iff.2 hbad]
      rfl
    rw [hsession hm hh, if_neg hp, if_neg hc, if_pos hkey, if_pos hany]

end Sys2Proof.Proofs
end

section
/-!
PROOFS. PUT and DELETE (R69, R71, R72, R74, R80): where an entry goes, what room it needs, and the outcomes that the two share once their fields
are good.
-/

namespace Sys2Proof.Proofs

open Sys2Proof.Machine Sys2Proof.Safety Sys2Proof.Laws

variable {s : State} {l : Link} {sq code : Byte} {key : Key} {expected : Option Word} {body : List Byte} {p : Privilege} {cls : RecClass}
  {e : StagedEntry} {q : List StagedEntry} {kind : ReqKind} {names : Option RecClass} {r : Result}

/-! ### Room in the list and in the pool (R69, R72) -/

/-- R72: the list holds the key, or takes one more entry and the pool has a slot for it. -/
def HasPlace (s : State) (q : List StagedEntry) (key : Key) : Prop :=
  (findStaged q key).isSome = true ∨ (q.length < 16 ∧ 1 ≤ s.poolFreeSlots)

/-- R72: a place, and the bytes of the entry, those of the entry it replaces counted as free. -/
def HasRoom (s : State) (q : List StagedEntry) (e : StagedEntry) : Prop :=
  HasPlace s q e.key ∧ e.bytes ≤ s.poolFreeBytes + ((findStaged q e.key).map StagedEntry.bytes).getD 0

theorem roomRefused_iff {isNew : Bool} {need freed : Nat} : roomRefused s l isNew need freed = true ↔
    (isNew = true ∧ (16 ≤ (s.row l).staging.length ∨ s.poolFreeSlots = 0)) ∨ s.poolFreeBytes + freed < need := by
  simp only [roomRefused, Bool.or_eq_true, Bool.and_eq_true, decide_eq_true_eq, beq_iff_eq]
  exact Iff.rfl

/-- R72: what is refused for room, as the negation of having it. -/
theorem roomRefused_entry : roomRefused s l (findStaged (s.row l).staging e.key).isNone e.bytes
    (((findStaged (s.row l).staging e.key).map StagedEntry.bytes).getD 0) = true ↔ ¬ HasRoom s (s.row l).staging e := by
  rw [roomRefused_iff]
  unfold HasRoom HasPlace
  cases findStaged (s.row l).staging e.key with
  | none =>
    simp only [Option.isNone_none, Option.isSome_none, Bool.false_eq_true, true_and, false_or]
    omega
  | some x => simp

/-- R72: an entry without body bytes asks for none of those it replaces. -/
theorem roomRefused_noBytes (isNew : Bool) (freed : Nat) : roomRefused s l isNew 0 freed = roomRefused s l isNew 0 0 := by
  rw [Bool.eq_iff_iff, roomRefused_iff, roomRefused_iff]
  simp

theorem hasRoom_noBytes (hb : e.bytes = 0) : HasRoom s q e ↔ HasPlace s q e.key := by
  simp [HasRoom, hb]

theorem hasRoom_atOwner : HasRoom (atOwner s l) ((atOwner s l).row l).staging e ↔ HasRoom s (freshLease (s.row l)).staging e := by
  unfold HasRoom HasPlace
  rw [atOwner_row_self, poolFreeSlots_atOwner, poolFreeBytes_atOwner]

/-- R69: where a staged entry goes. -/
theorem stage_eq (q : List StagedEntry) (e : StagedEntry) :
    stage q e = if (findStaged q e.key).isSome then q.map fun x => if x.key = e.key then e else x else q ++ [e] := by
  cases h : findStaged q e.key with
  | none => exact stage_new h
  | some x => exact stage_replaced h

/-! ### PUT and DELETE (R71, R72, R74, R80) -/

/-- What PUT and DELETE share once their fields are good: the checks of the change, the room, the entry staged. -/
def changeStaged (s : State) (l : Link) (sq : Byte) (kind : ReqKind) (names : Option RecClass) (e : StagedEntry) : State :=
  match changeCheck s.directory (s.privilegeOf l) e.key names false with
  | some r => s.refuse l sq kind r
  | none =>
    if roomRefused s l (findStaged (s.row l).staging e.key).isNone e.bytes
        (((findStaged (s.row l).staging e.key).map StagedEntry.bytes).getD 0) then s.refuse l sq kind .noRoom
    else s.stageEntry l sq kind e false

theorem changeStaged_refused (hc : changeCheck s.directory (s.privilegeOf l) e.key names false = some r) :
    changeStaged s l sq kind names e = s.refuse l sq kind r := by
  unfold changeStaged
  rw [hc]

theorem changeStaged_noRoom (hc : changeCheck s.directory (s.privilegeOf l) e.key names false = none)
    (hr : ¬ HasRoom s (s.row l).staging e) : changeStaged s l sq kind names e = s.refuse l sq kind .noRoom := by
  unfold changeStaged
  rw [hc]
  exact if_pos (roomRefused_entry.2 hr)

theorem changeStaged_staged (hc : changeCheck s.directory (s.privilegeOf l) e.key names false = none)
    (hr : HasRoom s (s.row l).staging e) : changeStaged s l sq kind names e = s.stageEntry l sq kind e false := by
  unfold changeStaged
  rw [hc]
  exact if_neg fun h => roomRefused_entry.1 h hr

/-- R66, R69, R183: the link after an entry is staged, and its reply. -/
def stagedReply (s : State) (l : Link) (sq kind : Byte) (e : StagedEntry) : State :=
  let row := freshLease (s.row l)
  let list := if (findStaged row.staging e.key).isSome then row.staging.map fun x => if x.key = e.key then e else x else row.staging ++ [e]
  replied s l { row with staging := list } (frame sq kind (0x00 :: poolReply (s.setRow l { row with staging := list }) l 0))

/-- R71, R72: the three outcomes of a change whose fields are good. -/
theorem changeStaged_atOwner (ho : OpenWith (s.row l) p) :
    (∀ r, changeCheck s.directory p e.key names false = some r →
      changeStaged (atOwner s l) l sq kind names e = refusedWith s l sq (replyKind kind.code) r.code kind.fixedPart) ∧
    (changeCheck s.directory p e.key names false = none →
      (HasRoom s (freshLease (s.row l)).staging e →
        changeStaged (atOwner s l) l sq kind names e = stagedReply s l sq (replyKind kind.code) e) ∧
      (¬ HasRoom s (freshLease (s.row l)).staging e →
        changeStaged (atOwner s l) l sq kind names e = refusedWith s l sq (replyKind kind.code) 0x50 kind.fixedPart)) := by
  rw [← privilegeOf_openWith (openWith_atOwner ho)]
  refine ⟨fun r hc => ?_, fun hc => ⟨fun hr => ?_, fun hr => ?_⟩⟩
  · rw [changeStaged_refused hc, refuse_atOwner]
  · rw [changeStaged_staged hc (hasRoom_atOwner.2 hr), stageEntry_atOwner, stage_eq, ← freshLease_staging (s.row l)]
    rfl
  · rw [changeStaged_noRoom hc (mt hasRoom_atOwner.1 hr), refuse_atOwner]
    rfl

theorem recClass_ofCode_code (cls : RecClass) : RecClass.ofCode cls.code = some cls := by
  cases cls <;> rfl

/-- R74: no class has a code above 3. -/
theorem recClass_ofCode_none (h : 3 < code.toNat) : RecClass.ofCode code = none := by
  have hne : ∀ b : Byte, b.toNat ≤ 3 → code ≠ b := by
    rintro b hb rfl
    omega
  unfold RecClass.ofCode
  rw [if_neg (hne 0 (by decide)), if_neg (hne 1 (by decide)), if_neg (hne 2 (by decide)), if_neg (hne 3 (by decide))]

section

variable (hr : stagingRefusal s l (some key) = none)
include hr

theorem requestPut_badClass (h : RecClass.ofCode code = none) :
    requestPut l sq key code expected body s = s.refuse l sq .put .badValue := by
  unfold requestPut
  rw [hr]
  dsimp only
  rw [h]

theorem requestPut_class :
    requestPut l sq key cls.code expected body s =
      if cls = .counter ∧ body.length ≠ 4 then s.refuse l sq .put .badValue
      else changeStaged s l sq .put (some cls) { key := key, op := .put cls expected body 0 } := by
  unfold requestPut
  rw [hr]
  dsimp only
  rw [recClass_ofCode_code]
  rfl

theorem requestDelete_passes :
    requestDelete l sq key expected s = changeStaged s l sq .delete none { key := key, op := .delete expected } := by
  unfold requestDelete
  rw [hr]
  dsimp only
  rw [← roomRefused_noBytes _ (((findStaged (s.row l).staging key).map StagedEntry.bytes).getD 0)]
  rfl

end

/-- Settles O18: PUT by its class field and the length of its body, then the outcomes that PUT and DELETE share. -/
theorem putAndDeleteStage : Obligations.PutAndDeleteStage := by
  intro l sq key expected p s h hm ho hp hk0 hkF row old listWith place staged
  have hr : stagingRefusal (atOwner s l) l (some key) = none :=
    stagingRefusal_none hm (openWith_atOwner ho) hp (keyInRange_iff.2 ⟨hk0, hkF⟩)
  refine ⟨fun code body hlen => ⟨fun hcode => ?_, ?_⟩, ?_⟩
  · rw [exec_put h hlen, requestPut_badClass hr (recClass_ofCode_none hcode), refuse_atOwner]
    rfl
  · rintro cls rfl
    rw [exec_put h hlen, requestPut_class hr]
    refine ⟨fun hc hb => ?_, fun hgood => ?_⟩
    · rw [if_pos ⟨hc, hb⟩, refuse_atOwner]
      rfl
    · rw [if_neg fun ⟨hc, hb⟩ => hb (hgood hc)]
      obtain ⟨hrefused, hpasses⟩ := changeStaged_atOwner (sq := sq) (kind := .put) (names := some cls)
        (e := { key := key, op := .put cls expected body 0 }) ho
      refine ⟨fun r hc => congrArg _ (hrefused r hc), fun hc => ?_⟩
      obtain ⟨hstaged, hnoRoom⟩ := hpasses hc
      exact ⟨fun hroom => congrArg _ (hstaged hroom), fun hroom => congrArg _ (hnoRoom hroom)⟩
  · rw [exec_delete h, requestDelete_passes hr]
    obtain ⟨hrefused, hpasses⟩ := changeStaged_atOwner (sq := sq) (kind := .delete) (names := none)
      (e := { key := key, op := .delete expected }) ho
    rw [hasRoom_noBytes rfl] at hpasses
    refine ⟨fun r hc => congrArg _ (hrefused r hc), fun hc => ?_⟩
    obtain ⟨hstaged, hnoRoom⟩ := hpasses hc
    exact ⟨fun hplace => congrArg _ (hstaged hplace), fun hplace => congrArg _ (hnoRoom hplace)⟩

end Sys2Proof.Proofs
end

section
/-!
PROOFS. APPEND (R76, R77): what it answers without a staged PUT of the key, for a COUNTER, and for the other classes by the checks of the change
and the pool's free bytes.
-/

namespace Sys2Proof.Proofs

open Sys2Proof.Machine Sys2Proof.Safety Sys2Proof.Laws

variable {s : State} {l : Link} {sq : Byte} {key : Key} {expected : Option Word} {bytes body : List Byte} {clipped : Nat} {p : Privilege}
  {cls : RecClass} {q : List StagedEntry} {kind : ReqKind} {r : Result}

theorem stagedOp_atOwner : stagedOp (atOwner s l) l key = (findStaged (s.row l).staging key).map StagedEntry.op := by
  unfold stagedOp
  rw [atOwner_row_self, freshLease_staging]

/-- The operation of the key's entry says what the entry is. -/
theorem stagedOp_atOwner_iff {op : StagedOp} :
    stagedOp (atOwner s l) l key = some op ↔ findStaged (s.row l).staging key = some { key := key, op := op } := by
  rw [stagedOp_atOwner, Option.map_eq_some_iff]
  constructor
  · rintro ⟨e, he, rfl⟩
    obtain ⟨-, rfl⟩ := findStaged_some he
    exact he
  · exact fun h => ⟨_, h, rfl⟩

/-- R183: a reply beside a new staging list. -/
theorem answer_setStaging (rest : List Byte) :
    ((atOwner s l).setStaging l q).answer l sq kind r rest =
      replied s l { freshLease (s.row l) with staging := q } (frame sq (replyKind kind.code) (r.code :: rest)) := by
  unfold State.setStaging
  rw [atOwner_row_self, answer_setRow]

/-! ### The branches of APPEND -/

section

variable (hr : stagingRefusal s l (some key) = none)
include hr

theorem requestAppend_notFound (h : ∀ c x b n, stagedOp s l key ≠ some (.put c x b n)) :
    requestAppend l sq key bytes s = s.refuse l sq .append .notFound := by
  unfold requestAppend
  rw [hr]
  dsimp only
  split
  · rename_i c x b n hput
    exact absurd hput (h c x b n)
  · rfl
  · rfl
  · rfl

theorem requestAppend_counter (h : stagedOp s l key = some (.put .counter expected body clipped)) :
    requestAppend l sq key bytes s = s.refuse l sq .append .classMismatch := by
  unfold requestAppend
  rw [hr]
  dsimp only
  rw [show (findStaged (s.row l).staging key).map StagedEntry.op = some (.put .counter expected body clipped) from h]
  exact if_pos rfl

variable (h : stagedOp s l key = some (.put cls expected body clipped)) (hcls : cls ≠ .counter)
include h hcls

theorem requestAppend_refused (hc : changeCheck s.directory (s.privilegeOf l) key (some cls) false = some r) :
    requestAppend l sq key bytes s = s.refuse l sq .append r := by
  unfold requestAppend
  rw [hr]
  dsimp only
  rw [show (findStaged (s.row l).staging key).map StagedEntry.op = some (.put cls expected body clipped) from h]
  dsimp only
  rw [if_neg hcls, hc]

/-- R72, R77: with the change checked, the pool's free bytes decide. -/
theorem requestAppend_checked (hc : changeCheck s.directory (s.privilegeOf l) key (some cls) false = none) :
    requestAppend l sq key bytes s =
      let accepted := min bytes.length (496 - body.length)
      let dropped := bytes.length - accepted
      if s.poolFreeBytes < accepted then s.answer l sq .append .noRoom (appendFields 0 body.length)
      else (s.setStaging l (stage (s.row l).staging
        { key := key, op := .put cls expected (body ++ bytes.take accepted) (raiseClipped clipped dropped) })).answer l sq .append
          (if dropped = 0 then .ok else .clipped) (appendFields accepted (body.length + accepted)) := by
  unfold requestAppend
  rw [hr]
  dsimp only
  rw [show (findStaged (s.row l).staging key).map StagedEntry.op = some (.put cls expected body clipped) from h]
  dsimp only
  rw [if_neg hcls, hc]
  simp only [roomRefused_iff, Bool.false_eq_true, false_and, false_or, Nat.add_zero]
  rfl

end

/-- Settles O19: by the key's staged entry, its class, the checks of the change and the pool's free bytes. -/
theorem appendExtendsPut : Obligations.AppendExtendsPut := by
  intro l sq key bytes p s h hm ho hp hk0 hkF hlen row old
  have hr : stagingRefusal (atOwner s l) l (some key) = none :=
    stagingRefusal_none hm (openWith_atOwner ho) hp (keyInRange_iff.2 ⟨hk0, hkF⟩)
  rw [exec_append h hlen]
  refine ⟨fun hno => ?_, fun cls expected body clipped hold => ?_⟩
  · rw [requestAppend_notFound hr fun c x b n hput => hno c x b n (stagedOp_atOwner_iff.1 hput), refuse_atOwner]
    rfl
  · have hput := stagedOp_atOwner_iff.2 hold
    rw [← privilegeOf_openWith (openWith_atOwner ho)]
    refine ⟨?_, fun hcls x hc => ?_, fun hcls hc => ?_⟩
    · rintro rfl
      rw [requestAppend_counter hr hput, refuse_atOwner]
      rfl
    · rw [requestAppend_refused hr hput hcls hc, refuse_atOwner]
      rfl
    · rw [requestAppend_checked hr hput hcls hc]
      dsimp only
      rw [poolFreeBytes_atOwner]
      refine ⟨fun hroom => ?_, fun hroom => ?_⟩
      · rw [if_neg (Nat.not_lt.2 hroom), answer_setStaging, apply_ite Result.code, atOwner_row_self, freshLease_staging,
          stage_replaced (e := ⟨key, _⟩) hold, ← freshLease_staging (s.row l)]
        rfl
      · rw [if_pos hroom, answer_atOwner]
        rfl

end Sys2Proof.Proofs
end

section
/-!
PROOFS. DROP (R81), STAGED (R82) and ABORT (R83) of a session that the common checks pass.
-/

namespace Sys2Proof.Proofs

open Sys2Proof.Machine Sys2Proof.Safety Sys2Proof.Laws

variable {s : State} {l : Link} {sq : Byte} {key : Key} {q : List StagedEntry} {kind : ReqKind}

/-- R66, R183: OK with the counts beside a new staging list. -/
theorem answerPool_setStaging :
    ((atOwner s l).setStaging l q).answerPool l sq kind false =
      replied s l { freshLease (s.row l) with staging := q } (frame sq (replyKind kind.code)
        (0x00 :: poolReply (s.setRow l { freshLease (s.row l) with staging := q }) l 0)) := by
  unfold State.answerPool
  rw [answer_setStaging, State.setStaging, atOwner_row_self, atOwner_setRow]
  rfl

theorem findStaged_isSome_iff : (findStaged q key).isSome = true ↔ ∃ x ∈ q, x.key = key := by
  simp [findStaged]

/-- R82, R183: the item of an entry, byte by byte. -/
theorem stagedItem_eq (e : StagedEntry) :
    stagedItem e =
      match e.op with
      | .put c expected body clipped =>
        be16 e.key ++ [0, c.code] ++ be16 (BitVec.ofNat 16 body.length) ++ be16 (BitVec.ofNat 16 clipped) ++
          [if expected.isSome then 1 else 0]
      | .delete expected => be16 e.key ++ [1, 0, 0, 0, 0, 0, if expected.isSome then 1 else 0]
      | .add _ => be16 e.key ++ [2, 0, 0, 0, 0, 0, 0] := by
  obtain ⟨key, op⟩ := e
  cases op with
  | put c expected body clipped => cases expected <;> rfl
  | delete expected => cases expected <;> rfl
  | add delta => rfl

section

variable (hr : stagingRefusal s l (some key) = none)
include hr

theorem requestDrop_found (h : ∃ x ∈ (s.row l).staging, x.key = key) :
    requestDrop l sq key s = (s.setStaging l (unstage (s.row l).staging key)).answerPool l sq .drop false := by
  obtain ⟨e, he⟩ := Option.isSome_iff_exists.1 (findStaged_isSome_iff.2 h)
  unfold requestDrop
  rw [hr]
  dsimp only
  rw [he]

theorem requestDrop_notFound (h : ∀ x ∈ (s.row l).staging, x.key ≠ key) :
    requestDrop l sq key s = s.refuse l sq .drop .notFound := by
  have hnone : findStaged (s.row l).staging key = none := List.find?_eq_none.2 fun x hx => by simpa using h x hx
  unfold requestDrop
  rw [hr]
  dsimp only
  rw [hnone]

end

section

variable (hr : stagingRefusal s l none = none)
include hr

theorem requestStaged_passes :
    requestStaged l sq s =
      s.answer l sq .staged .ok (BitVec.ofNat 8 (s.row l).staging.length :: (s.row l).staging.flatMap stagedItem) := by
  unfold requestStaged
  rw [hr]

theorem requestAbort_passes :
    requestAbort l sq s = (s.setStaging l []).answer l sq .abort .ok [BitVec.ofNat 8 (s.row l).staging.length] := by
  unfold requestAbort
  rw [hr]

end

/-- Settles O22: DROP by whether the list holds the key, then STAGED, then ABORT. -/
theorem dropStagedAbort : Obligations.DropStagedAbort := by
  intro l sq key p s h hm ho hp hk0 hkF row left
  have ho' := openWith_atOwner ho
  have hkeyed : stagingRefusal (atOwner s l) l (some key) = none := stagingRefusal_none hm ho' hp (keyInRange_iff.2 ⟨hk0, hkF⟩)
  have hkeyless : stagingRefusal (atOwner s l) l none = none := stagingRefusal_keyless hm ho' hp
  have hrow : (atOwner s l).row l = row := atOwner_row_self
  refine ⟨fun hin => ?_, fun hout => ?_, ?_, ?_⟩
  · rw [exec_drop h, requestDrop_found hkeyed (by rw [hrow]; exact hin), answerPool_setStaging, hrow]
    rfl
  · rw [exec_drop h, requestDrop_notFound hkeyed (by rw [hrow]; exact hout), refuse_atOwner]
    rfl
  · rw [exec_staged h, requestStaged_passes hkeyless, hrow, answer_atOwner, funext stagedItem_eq]
    rfl
  · rw [exec_abort h, requestAbort_passes hkeyless, hrow, answer_setStaging]
    rfl

end Sys2Proof.Proofs
end

section
/-!
PROOFS. The request COMMIT (R77, R87 to R89): what it is refused, in the order of its checks, and what its acceptance leaves to the arbiter.
-/

namespace Sys2Proof.Proofs

open Sys2Proof.Machine Sys2Proof.Safety Sys2Proof.Laws

variable {s : State} {l : Link} {sq : Byte} {p : Privilege} {key : Key}

/-! ### The checks of acceptance (R77, R87) -/

theorem exec_commit (h : PassesFree s l sq) : exec (.commit l sq) s = .next (requestCommit l sq (atOwner s l)) :=
  congrArg Host.Outcome.next (takeRequest_free h .commit (requestCommit l sq))

theorem refuseCommit_atOwner (r : Result) (key : Key) :
    (atOwner s l).refuseCommit l sq r key =
      replied s l (freshLease (s.row l)) (frame sq 0xC0 (r.code :: be16 key ++ [0, 0, 0, 0, 0, 0])) := by
  unfold State.refuseCommit
  rw [commitFields_none]
  exact answer_atOwner .commit r _

/-- R77, R87: the last two checks, of the staged list, and the acceptance. -/
def listChecked (s : State) (l : Link) (sq : Byte) : State :=
  if (s.row l).staging = [] then s.refuseCommit l sq .empty 0
  else
    match firstClipped (s.row l).staging with
    | some key => s.refuseCommit l sq .truncated key
    | none => s.acceptCommit l sq

theorem listChecked_empty (h : (s.row l).staging = []) : listChecked s l sq = s.refuseCommit l sq .empty 0 :=
  if_pos h

theorem listChecked_clipped (h : (s.row l).staging ≠ []) (hc : firstClipped (s.row l).staging = some key) :
    listChecked s l sq = s.refuseCommit l sq .truncated key := by
  unfold listChecked
  rw [if_neg h, hc]

theorem listChecked_passes (h : (s.row l).staging ≠ []) (hc : firstClipped (s.row l).staging = none) :
    listChecked s l sq = s.acceptCommit l sq := by
  unfold listChecked
  rw [if_neg h, hc]

/-- R87: what is left to check of a session in a mode whose owner answers. -/
theorem requestCommit_session (hm : answersMode s.mount.mode) (hh : (s.row l).holdsSession = true) :
    requestCommit l sq s =
      if (s.row l).privilege = some .read then s.refuseCommit l sq .notPermitted 0
      else if s.mount.mode = .readOnly then s.refuseCommit l sq .readOnly 0
      else if s.mount.mode = .unformatted then s.refuseCommit l sq .notReady 0
      else if (s.jobOf l).isSome then s.refuseCommit l sq .busy 0
      else listChecked s l sq := by
  have hanswers : ¬ (s.mount.mode = .mounting ∨ s.mount.mode = .formatting) ∧ s.mount.mode ≠ .halted := by
    rcases hm with hm | hm | hm <;> rw [hm] <;> decide
  unfold requestCommit
  rw [if_neg hanswers.1, if_neg hanswers.2, hh, if_neg (by decide)]
  rfl

section

variable (hm : s.mount.mode = .ready) (hh : (s.row l).holdsSession = true) (hp : (s.row l).privilege ≠ some .read)
include hm hh hp

theorem requestCommit_busy (hj : ∃ j ∈ s.commit.queue, j.link = l) : requestCommit l sq s = s.refuseCommit l sq .busy 0 := by
  have hsome : (s.jobOf l).isSome = true := by simpa [State.jobOf] using hj
  rw [requestCommit_session (.inl hm) hh, if_neg hp, hm, if_neg (by decide), if_neg (by decide), if_pos hsome]

/-- R87: with no job of the link the staged list decides. -/
theorem requestCommit_unqueued (hj : ∀ j ∈ s.commit.queue, j.link ≠ l) :
    requestCommit l sq s = listChecked s l sq := by
  rw [requestCommit_session (.inl hm) hh, if_neg hp, hm, if_neg (by decide), if_neg (by decide), State.jobOf_none.2 hj,
    if_neg (by decide)]

end

/-- R77, R87: entries that are not clipped are passed over. -/
theorem firstClipped_append {before : List StagedEntry} (h : ∀ e ∈ before, ∀ c x b n, e.op = .put c x b n → n = 0)
    (list : List StagedEntry) : firstClipped (before ++ list) = firstClipped list := by
  have hnone := firstClipped_none h
  unfold firstClipped at hnone ⊢
  rw [List.find?_append, Option.map_eq_none_iff.1 hnone, Option.none_or]

theorem firstClipped_cons {e : StagedEntry} {c : RecClass} {x : Option Word} {b : List Byte} {n : Nat} (h : e.op = .put c x b n) (hn : 0 < n)
    (list : List StagedEntry) : firstClipped (e :: list) = some e.key := by
  unfold firstClipped
  rw [List.find?_cons_of_pos (by simpa [h] using hn), Option.map_some]

/-- Settles O25: the checks in their order. -/
theorem commitRefusedInOrder : Obligations.CommitRefusedInOrder := by
  intro l sq s h row holds refused
  have refuses : ∀ r key, requestCommit l sq (atOwner s l) = (atOwner s l).refuseCommit l sq r key → refused r.code key :=
    fun r key hr => (exec_commit h).trans (congrArg _ (hr.trans (refuseCommit_atOwner r key)))
  have hsession : holds → ((atOwner s l).row l).holdsSession = true := fun hh => by
    rw [atOwner_row_self, freshLease_holds]
    exact holdsSession_iff.2 hh
  have hprivilege : ((atOwner s l).row l).privilege = row.privilege := by rw [atOwner_row_self, freshLease_privilege]
  have hstaging : ((atOwner s l).row l).staging = row.staging := by rw [atOwner_row_self, freshLease_staging]
  have hmode : (atOwner s l).mount.mode = s.mount.mode := rfl
  refine ⟨fun hm => refuses .notReady 0 (if_pos hm), fun hm hh hp => refuses .notPermitted 0 ?_, fun hm hh hp => refuses .readOnly 0 ?_,
    fun hm hh hp => refuses .notReady 0 ?_, fun hm hh hp hj => refuses .busy 0 ?_, fun hm hh hp hj => ?_⟩
  · rw [requestCommit_session (s := atOwner s l) hm (hsession hh), hprivilege, if_pos hp]
  · rw [requestCommit_session (s := atOwner s l) (.inr (.inl hm)) (hsession hh), hprivilege, if_neg hp, hmode, if_pos hm]
  · rw [requestCommit_session (s := atOwner s l) (.inr (.inr hm)) (hsession hh), hprivilege, if_neg hp, hmode, hm, if_neg (by decide),
      if_pos rfl]
  · exact requestCommit_busy (s := atOwner s l) hm (hsession hh) (hprivilege ▸ hp) hj
  · have hlist : requestCommit l sq (atOwner s l) = listChecked (atOwner s l) l sq :=
      requestCommit_unqueued (s := atOwner s l) hm (hsession hh) (hprivilege ▸ hp) hj
    refine ⟨fun hempty => refuses .empty 0 (hlist.trans (listChecked_empty (hstaging.trans hempty))),
      fun before e after c x b n hl he hn hbefore => refuses .truncated e.key (hlist.trans (listChecked_clipped ?_ ?_))⟩
    · rw [hstaging, hl]
      simp
    · rw [hstaging, hl, firstClipped_append hbefore, firstClipped_cons he hn]

/-! ### The acceptance (R88, R89, R177) -/

/-- R88: the row of an accepted COMMIT, its lease at the full period. -/
def committingRow (row : SessionRow) : SessionRow :=
  { freshLease row with state := .committing }

/-- R177: a link that holds a COMMIT. -/
def holdingLink (k : LinkState) (sq : Byte) : LinkState :=
  { hunting k with held := some { kind := .commit, sequence := sq } }

/-- R88, R177: the part with a COMMIT accepted and the queue as given. -/
def commitHeld (s : State) (l : Link) (sq : Byte) (q : List CommitJob) : State :=
  ((s.setQueue q).setRow l (committingRow (s.row l))).setLink l (holdingLink (s.link l) sq)

/-- R88: the job of a COMMIT on this link. -/
def acceptedJob (s : State) (l : Link) : CommitJob :=
  .accepted l ((freshLease (s.row l)).number.getD 0)

theorem acceptCommit_atOwner :
    (atOwner s l).acceptCommit l sq = (commitHeld s l sq (s.commit.queue ++ [acceptedJob s l])).settle := by
  unfold State.acceptCommit commitHeld acceptedJob
  dsimp only
  rw [atOwner_row_self]
  cases l <;> rfl

theorem exec_commit_accepted (h : PassesFree s l sq) (hm : s.mount.mode = .ready) (ho : OpenWith (s.row l) p) (hp : p ≠ .read)
    (hj : ∀ j ∈ s.commit.queue, j.link ≠ l) (hs : (s.row l).staging ≠ [])
    (hc : ∀ e ∈ (s.row l).staging, ∀ c x b n, e.op = .put c x b n → n = 0) :
    exec (.commit l sq) s = .next (commitHeld s l sq (s.commit.queue ++ [acceptedJob s l])).settle := by
  have ho' : OpenWith ((atOwner s l).row l) p := openWith_atOwner ho
  have hstaging : ((atOwner s l).row l).staging = (s.row l).staging := by rw [atOwner_row_self, freshLease_staging]
  rw [exec_commit h, requestCommit_unqueued (s := atOwner s l) hm (holdsSession_of_open ho') (by rw [ho'.2.2]; simpa using hp) hj,
    listChecked_passes (hstaging ▸ hs) (hstaging ▸ firstClipped_none hc), acceptCommit_atOwner]

/-- Settles O24: the job at the tail, and then the arbiter. -/
theorem commitAccepted : Obligations.CommitAccepted := by
  intro l sq p s h hm ho hp hj hs hc row job accepted
  exact ⟨exec_commit_accepted h hm ho hp hj hs hc, fun ht => State.settle_held ht⟩

end Sys2Proof.Proofs
end

section
/-!
PROOFS. A granted commit job (R90 to R103, R105): the checks of validation and their refusals, the wait for space, and the first image.
-/

namespace Sys2Proof.Proofs

open Sys2Proof.Machine Sys2Proof.Safety Sys2Proof.Laws

variable {s t : State} {l : Link} {sq : Byte} {p : Privilege} {j : CommitJob} {others : List CommitJob} {key : Key} {r : Result}

/-! ### The grant and the checks of validation (R90 to R98) -/

/-- R90: a job as it is granted the array. -/
def grantedJob (j : CommitJob) : CommitJob :=
  { j with state := .validating, granted := true }

theorem grantCommit_head (hq : s.commit.queue = j :: others) (ho : ∀ x ∈ others, x.link ≠ j.link) :
    s.grantCommit j = ((s.setTenancy .commit).setQueue (grantedJob j :: others)).validate (grantedJob j) := by
  rw [← State.setJob_head (s := s.setTenancy .commit) (j' := grantedJob j) hq ho rfl]
  rfl

section

variable (hm : s.mount.mode = .ready) (hp : (s.row j.link).privilege = some p)
include hm hp

theorem validate_failing (hf : firstFailing s.directory p (s.row j.link).staging = some (r, key)) :
    s.validate j = s.endJob j r key := by
  unfold State.validate
  dsimp only
  rw [if_neg (by rw [hm]; decide), hp, Option.getD_some, hf]

variable (hf : firstFailing s.directory p (s.row j.link).staging = none)
include hf

theorem validate_dirFull (hd : dirFullKey s.directory (s.row j.link).staging = some key) :
    s.validate j = s.endJob j .dirFull key := by
  unfold State.validate
  dsimp only
  rw [if_neg (by rw [hm]; decide), hp, Option.getD_some, hf]
  dsimp only
  rw [hd]

/-- R95 to R98: what is left to check of a job whose entries are good. -/
theorem validate_checked (hd : dirFullKey s.directory (s.row j.link).staging = none) :
    s.validate j =
      if s.commit.nextTxn = 0xFFFFFFFF then s.endJob j .readOnly 0
      else if s.fits (transactionSizes (s.row j.link).staging) then s.beginWriting j
      else if (transactionSizes (s.row j.link).staging).sum ≤ s.room then s.waitForSpace j
      else s.endJob j .storeFull 0 := by
  unfold State.validate
  dsimp only
  rw [if_neg (by rw [hm]; decide), hp, Option.getD_some, hf]
  dsimp only
  rw [hd]

end

/-! ### The space check (R97 to R99, R117) -/

theorem units_eq (e : StagedEntry) : e.units =
    match e.op with
    | .put cls _ body _ => if cls = .counter then 2 else 1 + (body.length + 15) / 16
    | .add _ => 2
    | .delete _ => 1 := by
  unfold StagedEntry.units
  cases e.op with
  | put cls x body n => cases cls <;> rfl
  | add d => rfl
  | delete x => rfl

theorem activeFree_eq (s : State) : s.activeFree =
    match s.activeSector with
    | some i => 256 - (s.sec i).nextFree
    | none => 0 := by
  unfold State.activeFree
  cases s.activeSector <;> rfl

/-- R99, R117: the head job waits, and the reclaimer is forced. -/
theorem waitForSpace_head (hq : s.commit.queue = j :: others) (ho : ∀ x ∈ others, x.link ≠ j.link) (hm : s.mount.mode = .ready) :
    s.waitForSpace j =
      (((s.setQueue ({ j with state := .waitingSpace } :: others)).setReclaim
        { s.reclaim with forced := true
                         state := if s.reclaim.state = .idle then .claimMove else s.reclaim.state }).setTenancy .none) := by
  have hservice : s.inService = true := inService_iff.2 (.inl hm)
  unfold State.waitForSpace
  rw [State.setJob_head (j' := { j with state := .waitingSpace }) hq ho rfl]
  unfold State.force
  by_cases hi : s.reclaim.state = .idle
  · dsimp only
    rw [if_pos ⟨hi, hservice⟩, if_pos hi, Bool.or_false]
    rfl
  · dsimp only
    rw [if_neg fun h => hi h.1, if_neg hi, Bool.or_false]
    rfl

/-- Settles O32: the sizes, the packing, the room, and the job that waits. -/
theorem commitWaitsForSpace : Obligations.CommitWaitsForSpace := by
  refine ⟨units_eq, ?_, ?_⟩
  · intro s sizes free packed
    have hfree : s.activeFree = free := activeFree_eq s
    refine ⟨?_, ?_⟩
    · have hfits := fits_iff s sizes
      rw [hfree] at hfits
      exact hfits
    · rw [State.room, totalWaste_eq, hfree]
      rfl
  · intro j others p s hm hq ho hp list sizes hf hd hn hfits hroom
    let u := (s.setTenancy .commit).setQueue (grantedJob j :: others)
    have hfits' : ¬ u.fits (transactionSizes (u.row (grantedJob j).link).staging) = true := by
      rw [State.fits_congr (t := u) (s := s) rfl]
      exact (Bool.not_eq_true _).mpr hfits
    have hroom' : (transactionSizes (u.row (grantedJob j).link).staging).sum ≤ u.room := by
      rw [State.room_congr (t := u) (s := s) rfl]
      exact hroom
    rw [grantCommit_head hq ho, validate_checked (s := u) (j := grantedJob j) hm hp hf hd,
      if_neg (show ¬ u.commit.nextTxn = 0xFFFFFFFF from hn), if_neg hfits', if_pos hroom',
      waitForSpace_head (s := u) (j := grantedJob j) rfl ho hm]
    rfl

/-! ### A job granted as it is accepted (R47, R90) -/

/-- The accepted job of a COMMIT as it is granted the array. -/
def commitGranted (s : State) (l : Link) (sq : Byte) : State :=
  (commitHeld s l sq [grantedJob (acceptedJob s l)]).setTenancy .commit

theorem commitGranted_row : (commitGranted s l sq).row l = committingRow (s.row l) :=
  State.setRow_row_self _ _ _

theorem commitGranted_link : (commitGranted s l sq).link l = holdingLink (s.link l) sq :=
  State.setLink_link_self _ _ _

theorem commitGranted_privilege (ho : OpenWith (s.row l) p) : ((commitGranted s l sq).row l).privilege = some p := by
  rw [commitGranted_row, ← ho.2.2]
  exact freshLease_privilege _

theorem commitGranted_staging : ((commitGranted s l sq).row l).staging = (s.row l).staging := by
  rw [commitGranted_row]
  exact freshLease_staging _

/-- R46, R47: the head job's claim, with no other. -/
theorem nextClaim_commit (hq : s.commit.queue = j :: others) (hj : j.state = .queued) (hr : s.reclaim.state = .idle)
    (hf : s.mount.format = none) : s.nextClaim = some (.commit j) := by
  have hformat : s.formatClaim = none := by
    unfold State.formatClaim
    rw [hf]
  have hreclaim : s.reclaimClaim = none := by
    unfold State.reclaimClaim
    rw [hr]
  have hcommit : s.commitClaim = some (.commit j) := by
    unfold State.commitClaim
    rw [hq]
    exact if_pos hj
  rw [nextClaim_noFormat hformat, hreclaim, hcommit, Option.or_none, Option.none_or, ite_self]

theorem exec_commit_granted (h : PassesFree s l sq) (hm : s.mount.mode = .ready) (ho : OpenWith (s.row l) p) (hp : p ≠ .read)
    (hquiet : Quiet s) (ht : s.array.tenancy = .none) (hs : (s.row l).staging ≠ [])
    (hc : ∀ e ∈ (s.row l).staging, ∀ c x b n, e.op = .put c x b n → n = 0) :
    exec (.commit l sq) s = .next (((commitGranted s l sq).validate (grantedJob (acceptedJob s l))).settleFor 511) := by
  obtain ⟨hq, hr, hf, hrestart⟩ := hquiet
  let u := commitHeld s l sq [acceptedJob s l]
  have hstopped : u.stopped = false := by
    show (s.mount.mode == .halted || s.mount.restart != .none) = false
    rw [hm, hrestart]
    rfl
  have hclaim : u.nextClaim = some (.commit (acceptedJob s l)) := nextClaim_commit rfl rfl hr hf
  have hgrant : u.grant (.commit (acceptedJob s l)) = (commitGranted s l sq).validate (grantedJob (acceptedJob s l)) :=
    (grantCommit_head (s := u) rfl (by simp)).trans rfl
  rw [exec_commit_accepted h hm ho hp (by simp [hq]) hs hc, hq, List.nil_append, settle_granted (s := u) ht hstopped hclaim, hgrant]

theorem settleFor_unclaimed (h : s.nextClaim = none) (n : Nat) : s.settleFor n = s := by
  cases n with
  | zero => rfl
  | succ n =>
    rw [State.settleFor, h]
    exact ite_self s

theorem settleFor_held (h : s.array.tenancy ≠ .none) (n : Nat) : s.settleFor n = s := by
  cases n with
  | zero => rfl
  | succ n => rw [State.settleFor, if_neg fun hx => h hx.1]

/-! ### A job refused at validation (R91 to R96, R116) -/

/-- R92 to R95, R98: a result that validation can give a job it refuses. -/
abbrev Refuses (r : Result) : Prop :=
  r ≠ .ok ∧ r ≠ .mediaFault ∧ r ≠ .halted

theorem changeCheck_refuses {d : List DirEntry} {names : Option RecClass} {isAdd : Bool} (h : changeCheck d p key names isAdd = some r) :
    Refuses r := by
  by_cases hp : PrivilegeFails d p key names
  · cases (changeCheck_notPermitted hp).symm.trans h
    decide
  · by_cases hf : ClassFails d key names isAdd
    · cases (changeCheck_classMismatch hp hf).symm.trans h
      decide
    · by_cases ho : liveClass d key = some .once
      · cases (changeCheck_onceViolation hp ho).symm.trans h
        decide
      · cases (changeCheck_passes hp hf ho).symm.trans h

theorem expectedCheck_refuses {d : List DirEntry} {expected : Option Word} (h : expectedCheck d key expected = some r) : Refuses r := by
  cases expected with
  | none => cases h
  | some g =>
    cases hl : Directory.live d key with
    | none =>
      rw [expectedCheck_notLive hl] at h
      split at h <;> cases h
      decide
    | some found =>
      rw [expectedCheck_live hl] at h
      split at h
      · cases h
        decide
      · split at h <;> cases h
        decide

theorem presenceCheck_refuses {d : List DirEntry} (h : presenceCheck d key = some r) : Refuses r := by
  rw [presenceCheck_eq] at h
  split at h <;> cases h
  decide

theorem entryCheck_refuses {d : List DirEntry} {e : StagedEntry} (h : entryCheck d p e = some r) : Refuses r := by
  unfold entryCheck at h
  cases ho : e.op with
  | put cls expected body n =>
    rw [ho] at h
    rcases Option.or_eq_some_iff.1 h with h | ⟨-, h⟩
    · exact expectedCheck_refuses h
    · exact changeCheck_refuses h
  | delete expected =>
    rw [ho] at h
    rcases Option.or_eq_some_iff.1 h with h | ⟨-, h⟩
    · rcases Option.or_eq_some_iff.1 h with h | ⟨-, h⟩
      · exact expectedCheck_refuses h
      · exact changeCheck_refuses h
    · exact presenceCheck_refuses h
  | add delta =>
    rw [ho] at h
    rcases Option.or_eq_some_iff.1 h with h | ⟨-, h⟩
    · exact changeCheck_refuses h
    · exact presenceCheck_refuses h

theorem firstFailing_refuses {d : List DirEntry} {list : List StagedEntry} (h : firstFailing d p list = some (r, key)) : Refuses r := by
  induction list with
  | nil => cases h
  | cons e list ih =>
    rw [firstFailing] at h
    cases he : entryCheck d p e with
    | none => rw [he] at h; exact ih h
    | some r' =>
      rw [he] at h
      cases h
      exact entryCheck_refuses he

/-- R96: the row OPEN with its list and a full lease, the held request answered with this body. -/
def answeredOpen (s : State) (l : Link) (h : Held) (body : List Byte) : State :=
  (s.setLink l (heldAnswered (s.link l) (frame h.sequence (h.kind.code + 0x80) body))).setRow l
    { s.row l with state := .opened, leaseRemaining := (s.row l).leasePeriod.map (· * 1000) }

theorem jobReported_answered {h : Held} {code : Byte} (n : Nat) (b : Bool) (ho : (s.row j.link).orphaned = false)
    (hm : s.mount.mode ≠ .halted) (hh : (s.link j.link).held = some h) (hc : code ≠ 0x00) :
    jobReported s j code key n b =
      answeredOpen s j.link h (code :: be16 key ++ be32 (j.txn.getD 0) ++ [BitVec.ofNat 8 n, if b then 1 else 0]) := by
  unfold jobReported
  dsimp only
  rw [if_neg (by rw [ho]; decide), if_neg hm, hh, if_neg hc]
  rfl

theorem cycleWanted_congr (hm : t.mount = s.mount) (hr : t.reclaim = s.reclaim) (ht : t.array.table = s.array.table) :
    CycleWanted t ↔ CycleWanted s := by
  unfold CycleWanted
  rw [hm, hr, State.erasedCount_congr ht, State.sec_congr ht]

/-- R96, R116: the end of a job whose session goes on, where no cycle is wanted. -/
theorem jobEnded_answered {h : Held} {code : Byte} (n : Nat) (b : Bool) (ho : (s.row j.link).orphaned = false)
    (hm : s.mount.mode ≠ .halted) (hh : (s.link j.link).held = some h) (hc : code ≠ 0x00) (hw : ¬ CycleWanted s) :
    jobEnded s j code key n b =
      ((answeredOpen s j.link h (code :: be16 key ++ be32 (j.txn.getD 0) ++ [BitVec.ofNat 8 n, if b then 1 else 0])).setQueue
        (s.commit.queue.filter fun x => x.link != j.link)).setTenancy .none := by
  unfold jobEnded
  rw [jobReported_answered n b ho hm hh hc]
  exact congrArg (State.setTenancy · .none) (if_neg (mt (cycleWanted_congr (s := s) rfl rfl rfl).1 hw))

theorem code_ne_ok (h : r ≠ .ok) : r.code ≠ 0x00 := by
  cases r with
  | ok => exact absurd rfl h
  | _ => decide

/-- A row that was OPEN is OPEN again, its lease at the full period. -/
theorem reopened_row {row : SessionRow} (h : row.state = .opened) :
    { committingRow row with state := .opened, leaseRemaining := (committingRow row).leasePeriod.map (· * 1000) } = freshLease row := by
  unfold committingRow freshLease
  rw [if_pos h]
  dsimp only
  rw [← h]

/-- R177: the answer to the held request leaves the link as the answer to a request that was never held. -/
theorem heldAnswered_holdingLink {k : LinkState} (h : k.held = none) (sq : Byte) (f : Frame) :
    heldAnswered (holdingLink k sq) f = withReply k f := by
  unfold withReply
  rw [h]
  rfl

/-- R96, R177: answered, the part is as after a request that was never held: the row OPEN with its list, the reply placed. -/
theorem answeredOpen_granted (ho : (s.row l).state = .opened) (hheld : (s.link l).held = none) (ht : s.array.tenancy = .none)
    (body : List Byte) :
    ((answeredOpen (commitGranted s l sq) l { kind := .commit, sequence := sq } body).setQueue s.commit.queue).setTenancy .none =
      replied s l (freshLease (s.row l)) (frame sq 0xC0 body) := by
  have hfree : s.setTenancy .none = s := by
    rw [← ht]
    rfl
  unfold answeredOpen
  rw [commitGranted_row, commitGranted_link, reopened_row ho, heldAnswered_holdingLink hheld]
  have hreplied : replied s l (freshLease (s.row l)) (frame sq 0xC0 body) =
      replied (s.setTenancy .none) l (freshLease (s.row l)) (frame sq 0xC0 body) := by rw [hfree]
  rw [hreplied]
  cases l <;> rfl

theorem endJob_refused (hr : Refuses r) (hm : s.mount.mode = .ready) (ho : OpenWith (s.row l) p) (hheld : (s.link l).held = none)
    (hq : s.commit.queue = []) (ht : s.array.tenancy = .none) (hw : ¬ CycleWanted s) :
    (commitGranted s l sq).endJob (grantedJob (acceptedJob s l)) r key =
      replied s l (freshLease (s.row l)) (frame sq 0xC0 (r.code :: be16 key ++ [0, 0, 0, 0, 0, 0])) := by
  obtain ⟨hok, hfault, hhalted⟩ := hr
  let job := grantedJob (acceptedJob s l)
  let u := commitGranted s l sq
  have horphan : (u.row job.link).orphaned = false := by
    rw [show u.row job.link = _ from commitGranted_row]
    exact (freshLease_orphaned _).trans ho.2.1
  have hmode : u.mount.mode ≠ .halted := by
    rw [show u.mount.mode = _ from hm]
    decide
  have hholds : (u.link job.link).held = some { kind := .commit, sequence := sq } := by
    rw [show u.link job.link = _ from commitGranted_link]
    rfl
  have hunwanted : ¬ CycleWanted u := mt (cycleWanted_congr (t := u) (s := s) rfl rfl rfl).1 hw
  have hqueue : u.commit.queue.filter (fun x => x.link != job.link) = s.commit.queue := by
    rw [hq]
    exact List.filter_eq_nil_iff.2 (by simp [u, job, commitGranted, commitHeld])
  have hreply : r.code :: be16 key ++ be32 (job.txn.getD 0) ++ [BitVec.ofNat 8 0, if false then 1 else 0] =
      r.code :: be16 key ++ [0, 0, 0, 0, 0, 0] := congrArg (r.code :: ·) (commitFields_none key)
  rw [endJob_eq _ _ _ _ rfl, if_neg (by simp [hfault, hhalted]), if_neg hok, beq_false_of_ne hok, Bool.false_and,
    jobEnded_answered (s := u) (j := job) 0 false horphan hmode hholds (code_ne_ok hok) hunwanted, hqueue, hreply]
  exact answeredOpen_granted ho.1 hheld ht _

/-- R116: with ERASED sectors enough, or no FULL sector worth a cycle, none is wanted. -/
theorem cycleUnwanted
    (h : 4 < s.erasedCount ∨ ∀ k, (s.sec k).state = .full → (s.sec k).waste = 0 ∧ (s.sec k).retirePending = false) :
    ¬ CycleWanted s := by
  rintro ⟨-, -, hfew, k, hfull, -, hworth⟩
  rcases h with h | h
  · omega
  · obtain ⟨hwaste, hpending⟩ := h k hfull
    rw [hwaste, hpending] at hworth
    exact hworth.elim (Nat.lt_irrefl 0) (by decide)

/-- Settles O26: an entry that fails, a full directory, the last transaction number, no room. -/
theorem commitRefusedAtValidation : Obligations.CommitRefusedAtValidation := by
  intro l sq p s h hm ho hp hquiet ht hw hs hc list sizes refused
  let u := commitGranted s l sq
  let job := grantedJob (acceptedJob s l)
  have hexec : exec (.commit l sq) s = .next ((u.validate job).settleFor 511) := exec_commit_granted h hm ho hp hquiet ht hs hc
  obtain ⟨hq, hr, hf, -⟩ := hquiet
  have refuses : ∀ r key, Refuses r → u.validate job = u.endJob job r key → refused r.code key := by
    intro r key hrefuses hv
    rw [endJob_refused hrefuses hm ho h.2 hq ht (cycleUnwanted hw)] at hv
    refine hexec.trans (congrArg _ ?_)
    rw [hv]
    exact settleFor_unclaimed (s := replied s l _ _) (nextClaim_none hq hr hf) 511
  have hpriv : (u.row job.link).privilege = some p := commitGranted_privilege ho
  have hlist : (u.row job.link).staging = list := commitGranted_staging
  have hchecked := fun hfail hfull => validate_checked (s := u) (j := job) hm hpriv (hlist ▸ hfail) (hlist ▸ hfull)
  rw [hlist] at hchecked
  refine ⟨fun r key hfail => refuses r key (firstFailing_refuses hfail) (validate_failing (s := u) hm hpriv (hlist ▸ hfail)),
    fun hfail key hfull => refuses .dirFull key (by decide) (validate_dirFull (s := u) hm hpriv (hlist ▸ hfail) (hlist ▸ hfull)),
    fun hfail hfull => ⟨fun hlast => refuses .readOnly 0 (by decide) ?_, fun hnext hfits hroom => refuses .storeFull 0 (by decide) ?_⟩⟩
  · rw [hchecked hfail hfull, if_pos (show u.commit.nextTxn = 0xFFFFFFFF from hlast)]
  · have hfits' : ¬ u.fits (transactionSizes list) = true := by
      rw [State.fits_congr (t := u) (s := s) rfl]
      exact (Bool.not_eq_true _).mpr hfits
    have hroom' : ¬ (transactionSizes list).sum ≤ u.room := by
      rw [State.room_congr (t := u) (s := s) rfl]
      exact Nat.not_le.2 hroom
    rw [hchecked hfail hfull, if_neg (show ¬ u.commit.nextTxn = 0xFFFFFFFF from hnext), if_neg hfits', if_neg hroom']

/-! ### The first image (R100 to R103, R105) -/

/-- R100: the granted job WRITING under its transaction number. -/
def writingJob (s : State) (l : Link) (saturated : Bool) : CommitJob :=
  { grantedJob (acceptedJob s l) with state := .writing, txn := some s.commit.nextTxn, saturated := saturated }

/-- R100: the part with the job WRITING and the transaction number taken. -/
def commitBegun (s : State) (l : Link) (sq : Byte) (saturated : Bool) : State :=
  (commitHeld (s.setNextTxn (s.commit.nextTxn + 1)) l sq [writingJob s l saturated]).setTenancy .commit

theorem beginWriting_granted :
    (commitGranted s l sq).beginWriting (grantedJob (acceptedJob s l)) = (commitBegun s l sq false).commitWrite (writingJob s l false) := by
  have hset : ((commitGranted s l sq).setNextTxn (s.commit.nextTxn + 1)).setJob (writingJob s l false) = commitBegun s l sq false :=
    State.setJob_head (s := (commitGranted s l sq).setNextTxn (s.commit.nextTxn + 1)) (j := grantedJob (acceptedJob s l))
      (j' := writingJob s l false) (others := []) rfl (by simp) rfl
  exact congrArg (fun t => t.commitWrite (writingJob s l false)) hset

/-- R101, R102: the image of an entry depends on the directory and on the array's bytes alone. -/
theorem entryImage_congr (hd : t.directory = s.directory) (hmem : t.array.mem = s.array.mem) (T : Word) (e : StagedEntry) :
    t.entryImage T e = s.entryImage T e := by
  have hread : t.readCounter e.key = s.readCounter e.key := by
    unfold State.readCounter
    rw [hd, hmem]
  unfold State.entryImage
  rw [hread]

theorem commitBegun_entryImage (saturated : Bool) (T : Word) (e : StagedEntry) :
    (commitBegun s l sq saturated).entryImage T e = s.entryImage T e :=
  entryImage_congr (by simp [commitBegun, commitHeld]) (by simp [commitBegun, commitHeld]) T e

section

variable {e : StagedEntry} {rest : List StagedEntry}
variable (hs : (s.row l).staging = e :: rest)
include hs

theorem commitBegun_staging (saturated : Bool) : ((commitBegun s l sq saturated).row l).staging = e :: rest := by
  have hrow : (commitBegun s l sq saturated).row l = committingRow (s.row l) := State.setRow_row_self _ _ _
  rw [hrow, ← hs]
  exact freshLease_staging _

/-- R101 to R103: the first entry's image finds its place. -/
theorem commitWrite_first {img : Image} {saturated : Bool} (hf : s.fits (transactionSizes (e :: rest)) = true)
    (hi : FormsImage s s.commit.nextTxn e img saturated) (h : Placed (commitBegun s l sq saturated) img t) :
    (commitBegun s l sq false).commitWrite (writingJob s l false) = t := by
  have himage : (commitBegun s l sq false).entryImage s.commit.nextTxn e = some (img, saturated) :=
    (commitBegun_entryImage _ _ _).trans ((formsImage_iff _ _ _ _ _).1 hi)
  have hfirst : ((commitBegun s l sq false).row l).staging[0]? = some e := by
    rw [commitBegun_staging hs]
    rfl
  have hwrite : (commitBegun s l sq false).commitWrite (writingJob s l false) =
      (commitBegun s l sq false).commitPlace (writingJob s l saturated) img :=
    commitWrite_image (j := writingJob s l false) hfirst himage
  have hfits : (commitBegun s l sq false).fits
      ((transactionSizes ((commitBegun s l sq false).row l).staging).drop ((writingJob s l saturated).position - 1)) = true := by
    rw [commitBegun_staging hs, State.fits_congr (t := commitBegun s l sq false) (s := s) rfl]
    exact hf
  rw [hwrite]
  exact commitPlace_placed (j := writingJob s l false) (others := []) rfl (by simp) rfl hfits h

/-- R102, R105: the committed value of the first entry's counter does not read back. -/
theorem commitWrite_first_unread {delta : Word} (ha : e.op = .add delta) (hv : ∀ value, ¬ CounterReads s e.key value) :
    (commitBegun s l sq false).commitWrite (writingJob s l false) =
      jobEnded (commitBegun s l sq false) (writingJob s l false) 0x60 e.key 0 false := by
  have hread : s.readCounter e.key = none := Option.eq_none_iff_forall_ne_some.2 fun v h => hv v ((counterReads_iff s e.key v).2 h)
  have hfirst : ((commitBegun s l sq false).row l).staging[0]? = some e := by
    rw [commitBegun_staging hs]
    rfl
  have himage : (commitBegun s l sq false).entryImage s.commit.nextTxn e = none := by
    rw [commitBegun_entryImage]
    unfold State.entryImage
    rw [ha, hread]
  rw [commitWrite_unread (j := writingJob s l false) hfirst himage, endJob_wasted (.inl rfl) _ rfl]
  exact congrArg (jobEnded · _ _ _ _ _) (withWaste_nil _)

end

/-- Settles O27: the first image placed, and an ADD whose committed value does not read back. -/
theorem commitBeginsWriting : Obligations.CommitBeginsWriting := by
  intro l sq p e rest s h hm ho hp hquiet ht hs hc hfail hfull hnext hfits row T job begun
  let u := commitGranted s l sq
  let granted := grantedJob (acceptedJob s l)
  have hpriv : (u.row l).privilege = some p := commitGranted_privilege ho
  have hlist : (u.row l).staging = e :: rest := commitGranted_staging.trans hs
  have hfits' : u.fits (transactionSizes (u.row l).staging) = true := by
    rw [hlist, State.fits_congr (t := u) (s := s) rfl]
    exact hfits
  have hvalidate : u.validate granted = (commitBegun s l sq false).commitWrite (writingJob s l false) := by
    rw [validate_checked (s := u) (j := granted) hm hpriv (hlist ▸ hfail) (hlist ▸ hfull),
      if_neg (show ¬ u.commit.nextTxn = 0xFFFFFFFF from hnext), if_pos (by exact hfits'), beginWriting_granted]
  have hexec : exec (.commit l sq) s =
      .next (((commitBegun s l sq false).commitWrite (writingJob s l false)).settleFor 511) := by
    rw [exec_commit_granted h hm ho hp hquiet ht (by rw [hs]; simp) (by rw [hs]; exact hc), hvalidate]
  refine ⟨fun img saturated t hi hplaced => ?_, fun delta ha hv => ?_⟩
  · have hheld : t.array.tenancy ≠ .none := by
      rw [placed_tenancy hplaced]
      exact nofun
    rw [hexec, commitWrite_first hs hfits hi hplaced, settleFor_held hheld]
  · rw [hexec, commitWrite_first_unread hs ha hv]
    rfl

end Sys2Proof.Proofs
end

section
/-!
PROOFS. RECLAIM (R117, R133): without a candidate it is answered and nothing more; with one the reclaimer is forced and the arbiter goes on.
-/

namespace Sys2Proof.Proofs

open Sys2Proof.Machine Sys2Proof.Safety Sys2Proof.Laws

variable {s : State} {l : Link} {sq : Byte}

theorem exec_reclaim (h : PassesFree s l sq) : exec (.reclaim l sq) s = .next (requestReclaim l sq (atOwner s l)) :=
  congrArg Host.Outcome.next (takeRequest_free h .reclaim (requestReclaim l sq))

/-- R117: the reclaimer forced, and in a mode in service claiming where it was at rest. -/
def forcedReclaimer (r : Reclaimer) (requested : Bool) : Reclaimer :=
  { r with forced := true, requested := r.requested || requested, state := if r.state = .idle then .claimMove else r.state }

theorem force_inService (h : s.inService = true) (requested : Bool) :
    s.force requested = s.setReclaim (forcedReclaimer s.reclaim requested) := by
  unfold State.force forcedReclaimer
  by_cases hi : s.reclaim.state = .idle
  · rw [if_pos hi]
    exact if_pos ⟨hi, h⟩
  · rw [if_neg hi]
    exact if_neg fun hx => hi hx.1

theorem victimCandidates_isEmpty_iff :
    s.victimCandidates.isEmpty = true ↔ ∀ k, ¬ ((s.sec k).state = .full ∧ k ∉ s.reclaim.barred) := by
  rw [List.isEmpty_iff, List.eq_nil_iff_forall_not_mem]
  exact forall_congr' fun _ => not_congr mem_victimCandidates

section

variable (hm : s.mount.mode ≠ .unformatted) (hr : serviceRefusal s l = none)
include hm hr

/-- R133: what is left of a RECLAIM that passes the checks of its session and mode. -/
theorem requestReclaim_passes : requestReclaim l sq s =
    if s.victimCandidates.isEmpty then s.answer l sq .reclaim .ok [0]
    else ((s.force true).answer l sq .reclaim .ok [1]).settle := by
  unfold requestReclaim
  rw [hr]
  exact if_neg hm

theorem requestReclaim_unscheduled (hc : ∀ k, ¬ ((s.sec k).state = .full ∧ k ∉ s.reclaim.barred)) :
    requestReclaim l sq s = s.answer l sq .reclaim .ok [0] := by
  rw [requestReclaim_passes hm hr, if_pos (victimCandidates_isEmpty_iff.2 hc)]

theorem requestReclaim_scheduled (hs : s.inService = true) (hc : ∃ k, (s.sec k).state = .full ∧ k ∉ s.reclaim.barred) :
    requestReclaim l sq s = ((s.answer l sq .reclaim .ok [1]).setReclaim (forcedReclaimer s.reclaim true)).settle := by
  obtain ⟨k, hk⟩ := hc
  rw [requestReclaim_passes hm hr, if_neg fun he => victimCandidates_isEmpty_iff.1 he k hk, force_inService hs]
  rfl

end

/-- Settles O39: by whether some FULL sector is not barred. -/
theorem reclaimSchedulesCycle : Obligations.ReclaimSchedulesCycle := by
  intro l sq s h hmode ho r candidate
  have hm : s.mount.mode ≠ .unformatted := by rcases hmode with hm | hm <;> rw [hm] <;> decide
  have hr : serviceRefusal (atOwner s l) l = none := serviceRefusal_none (hmode.imp_right .inl) ho
  rw [exec_reclaim h]
  refine ⟨fun hc => ?_, fun hc => ?_⟩
  · rw [requestReclaim_unscheduled (s := atOwner s l) hm hr hc, answer_atOwner]
    rfl
  · rw [requestReclaim_scheduled (s := atOwner s l) hm hr (inService_iff.2 hmode) hc, answer_atOwner, forcedReclaimer, Bool.or_true]
    rfl

end Sys2Proof.Proofs
end

section
/-!
PROOFS. What the walk of a victim keeps beside its place (R127): the open transaction and the stale tally after each image and each MARK.
-/

namespace Sys2Proof.Proofs

open Sys2Proof.Machine Sys2Proof.Safety Sys2Proof.Laws

variable {d : List DirEntry} {key : Key} {loc : Location} {img : Image} {o : Option OpenTxn} {tally : List TallyItem}

theorem isCurrent_iff : isCurrent d key loc = true ↔ ∃ e, Directory.find d key = some e ∧ e.location = loc := by
  unfold isCurrent
  cases Directory.find d key <;> simp

/-! ### The open transaction and the tally -/

/-- R127: the place that an image of a key adds to its transaction, none where the image is current. -/
def listedPlace (d : List DirEntry) (loc : Location) (img : Image) (key : Key) : List KeyedPlace :=
  if isCurrent d key loc then [] else [{ key := key, place := { location := loc, size := img.units } }]

theorem listedPlace_current (h : ∃ e, Directory.find d key = some e ∧ e.location = loc) : listedPlace d loc img key = [] :=
  if_pos (isCurrent_iff.2 h)

theorem listedPlace_old (h : ¬ ∃ e, Directory.find d key = some e ∧ e.location = loc) :
    listedPlace d loc img key = [{ key := key, place := { location := loc, size := img.units } }] :=
  if_neg (mt isCurrent_iff.1 h)

theorem joinOpen_same {t : OpenTxn} {listed : List KeyedPlace} :
    joinOpen (some t) t.number listed = some { t with images := t.images ++ listed } :=
  if_pos rfl

theorem joinOpen_other {g : Word} {listed : List KeyedPlace} (h : ∀ t, o = some t → t.number ≠ g) :
    joinOpen o g listed = some { number := g, images := listed } := by
  cases o with
  | none => rfl
  | some t => exact if_neg (h t rfl)

theorem trackImage_commit (h : (∃ c b g, img = .record c key b g) ∨ ∃ g, img = .void key g) :
    trackImage d loc img o tally = (joinOpen o img.number (listedPlace d loc img key), tally) := by
  obtain ⟨c, b, g, rfl⟩ | ⟨g, rfl⟩ := h <;> rfl

theorem trackImage_copy (h : (∃ c b g, img = .copyRecord c key b g) ∨ ∃ g, img = .copyVoid key g) :
    trackImage d loc img o tally = (none, if isCurrent d key loc then tally else addTally tally key) := by
  obtain ⟨c, b, g, rfl⟩ | ⟨g, rfl⟩ := h <;> rfl

theorem trackImage_ownMark {t : OpenTxn} {count : Nat} :
    trackImage d loc (.mark t.number count) (some t) tally = (none, t.images.foldl (fun y p => addTally y p.key) tally) :=
  if_pos rfl

theorem trackImage_otherMark {n : Word} {count : Nat} (h : ∀ t, o = some t → t.number ≠ n) :
    trackImage d loc (.mark n count) o tally = (none, tally) := by
  cases o with
  | none => rfl
  | some t => exact if_neg (h t rfl)

/-- R127: a commit image joins its transaction, or begins it where another or none is open; a current one is not listed. -/
theorem trackImage_commit_cases (h : (∃ c b g, img = .record c key b g) ∨ ∃ g, img = .void key g) :
    let tracked := trackImage d loc img o tally
    let current := ∃ e, Directory.find d key = some e ∧ e.location = loc
    let place : KeyedPlace := { key := key, place := { location := loc, size := img.units } }
    (∀ t, o = some t → t.number = img.number →
      (current → tracked = (o, tally)) ∧ (¬ current → tracked = (some { t with images := t.images ++ [place] }, tally))) ∧
    ((∀ t, o = some t → t.number ≠ img.number) →
      (current → tracked = (some { number := img.number, images := [] }, tally)) ∧
      (¬ current → tracked = (some { number := img.number, images := [place] }, tally))) := by
  intro tracked current place
  have htrack : tracked = (joinOpen o img.number (listedPlace d loc img key), tally) := trackImage_commit h
  rw [htrack]
  refine ⟨fun t ho hn => ?_, fun hn => ?_⟩
  · rw [ho, ← hn, joinOpen_same]
    refine ⟨fun hc => ?_, fun hc => ?_⟩
    · rw [listedPlace_current hc, List.append_nil]
    · rw [listedPlace_old hc]
  · rw [joinOpen_other hn]
    refine ⟨fun hc => ?_, fun hc => ?_⟩
    · rw [listedPlace_current hc]
    · rw [listedPlace_old hc]

/-- R127: a COPY ends what is open, and one that is not current is stale. -/
theorem trackImage_copy_cases (h : (∃ c b g, img = .copyRecord c key b g) ∨ ∃ g, img = .copyVoid key g) :
    ((∃ e, Directory.find d key = some e ∧ e.location = loc) → trackImage d loc img o tally = (none, tally)) ∧
    ((¬ ∃ e, Directory.find d key = some e ∧ e.location = loc) → trackImage d loc img o tally = (none, addTally tally key)) := by
  rw [trackImage_copy h]
  refine ⟨fun hc => ?_, fun hc => ?_⟩
  · rw [if_pos (isCurrent_iff.2 hc)]
  · rw [if_neg (mt isCurrent_iff.1 hc)]

/-! ### Counts of the tally -/

/-- R114: a key's count in the tally, 0 where it has none. -/
def tallyCount (tally : List TallyItem) (key : Key) : Nat :=
  ((tally.find? fun i => i.key == key).map TallyItem.count).getD 0

theorem tallyCount_cons (i : TallyItem) (tally : List TallyItem) (key : Key) :
    tallyCount (i :: tally) key = if i.key = key then i.count else tallyCount tally key := by
  unfold tallyCount
  by_cases h : i.key = key <;> simp [h]

/-- One more stale image raises its key's count by 1 and no other. -/
theorem tallyCount_addTally (tally : List TallyItem) (key x : Key) :
    tallyCount (addTally tally key) x = tallyCount tally x + if x = key then 1 else 0 := by
  induction tally with
  | nil =>
    rw [addTally, tallyCount_cons]
    simp [eq_comm, tallyCount]
  | cons i tally ih =>
    rw [addTally, tallyCount_cons]
    by_cases hk : i.key = key
    · rw [if_pos hk, tallyCount_cons]
      by_cases hx : i.key = x
      · simp [← hk, hx]
      · simp [← hk, hx, Ne.symm hx]
    · rw [if_neg hk, tallyCount_cons, ih]
      by_cases hx : i.key = x
      · simp [← hx, hk]
      · simp [hx]

end Sys2Proof.Proofs
end

section
/-!
PROOFS. The move phase (R120 to R127): its grant with a victim, the walk one unit at a time, and what is copied.
-/

namespace Sys2Proof.Proofs

open Sys2Proof.Machine Sys2Proof.Safety Sys2Proof.Laws

variable {s : State} {v i : Sector} {n : Nat} {loc : Location} {img : Image} {e : DirEntry} {key : Key}

/-! ### The grant (R120, R123) -/

theorem grantMove_chosen (h : (s.setTenancy .move).chooseVictim (s.reclaim.rotation + 1 == 32) 49 [] = some v) :
    s.grantMove = cycleOf (s.setTenancy .move) s.reclaim.rotation (some v) := by
  have h' : (s.setTenancy .move).chooseVictim (s.reclaim.rotation + 1 == Config.rotation) 49 [] = some v := h
  unfold State.grantMove
  simp only [h', Option.isNone_some, Bool.false_and, Option.some_or]
  rfl

theorem cycleOf_fits {rotation : Nat} (h : s.copiesFit v = true) :
    cycleOf s rotation (some v) = s.beginMove v (if rotation + 1 = 32 then 0 else rotation + 1) :=
  if_pos h

theorem cycleOf_unfit {rotation : Nat} (h : ¬ s.copiesFit v = true) : cycleOf s rotation (some v) = s.noCycle rotation :=
  if_neg h

/-! ### The entry of an image (R124 to R126) -/

theorem entryBeyond_iff {u : Nat} : s.entryBeyond v u = true ↔
    ∃ e ∈ s.directory, e.dropPending = false ∧ e.location.sector = v ∧ u ≤ e.location.unit := by
  simp [State.entryBeyond, and_assoc]

theorem currentEntry_some (hk : img.key? = some key) (hf : Directory.find s.directory key = some e) (hl : e.location = loc) :
    s.currentEntry loc img = some e := by
  unfold State.currentEntry
  rw [hk]
  dsimp only
  rw [hf]
  exact if_pos hl

theorem currentEntry_none (h : ∀ key e, img.key? = some key → Directory.find s.directory key = some e → e.location ≠ loc) :
    s.currentEntry loc img = none := by
  unfold State.currentEntry
  cases hk : img.key? with
  | none => rfl
  | some key =>
    dsimp only
    cases hf : Directory.find s.directory key with
    | none => rfl
    | some e => exact if_neg (h key e hk hf)

theorem isLive_iff {b : EntryBody} : b.isLive = true ↔ b ≠ .deleted := by
  cases b <;> simp [EntryBody.isLive]

/-- R125: a RECORD or a COPY of one. -/
def IsRecord (img : Image) : Prop :=
  (∃ c k b g, img = .record c k b g) ∨ ∃ c k b g, img = .copyRecord c k b g

/-- R14, R15: an image of a key makes its entry LIVE where it is a RECORD or a COPY of one, and DELETED otherwise. -/
theorem entryBody_of_key (hk : img.key? = some key) : ∃ b, img.entryBody? = some b ∧ (b.isLive = true ↔ IsRecord img) := by
  cases img with
  | record c k b g => exact ⟨_, rfl, iff_of_true rfl (.inl ⟨c, k, b, g, rfl⟩)⟩
  | copyRecord c k b g => exact ⟨_, rfl, iff_of_true rfl (.inr ⟨c, k, b, g, rfl⟩)⟩
  | void k g => exact ⟨_, rfl, by simp [EntryBody.isLive, IsRecord]⟩
  | copyVoid k g => exact ⟨_, rfl, by simp [EntryBody.isLive, IsRecord]⟩
  | mark m c => cases hk

theorem imageAgrees_iff (hk : img.key? = some key) : State.imageAgrees img e = true ↔
    e.generation = img.number ∧ (IsRecord img ↔ e.body ≠ .deleted) := by
  obtain ⟨b, hb, hlive⟩ := entryBody_of_key hk
  rw [← hlive, ← isLive_iff, ← Bool.eq_iff_iff]
  simp [State.imageAgrees, hb]

theorem dropsVoid_iff : s.dropsVoid e = true ↔ e.body = .deleted ∧ e.stale = 0 ∧ s.array.recorded = true := by
  have hbody : e.body.isLive = false ↔ e.body = .deleted := by rw [← Bool.not_eq_true, isLive_iff, Classical.not_not]
  simp [State.dropsVoid, hbody, and_assoc]

theorem markDrop_eq (s : State) (key : Key) :
    s.markDrop key = s.setDirectory (s.directory.map fun x => if x.key = key then { x with dropPending := true } else x) :=
  congrArg s.setDirectory (update_eq_map fun _ => rfl)

/-! ### One unit of the walk (R124 to R126) -/

/-- R125, R126: the walk at an image, by the entry whose current image it is. -/
def walkImage (s : State) (v : Sector) (n : Nat) (loc : Location) (img : Image) (current : Option DirEntry) : State :=
  match current with
  | none => State.walk v n ((s.trackWalk loc img).advanceWalk img.units)
  | some e =>
    if State.imageAgrees img e then
      if s.dropsVoid e then State.walk v n (((s.trackWalk loc img).markDrop e.key).advanceWalk img.units)
      else (s.trackWalk loc img).placeCopy v img.copyOf
    else s.moveEndsEarly v true

/-- R124: the walk by what the read path returns at its unit. -/
def walkRead (s : State) (v : Sector) (n : Nat) (r : ReadResult) : State :=
  let loc : Location := { sector := v, unit := s.reclaim.walkUnit }
  match r with
  | .fill => State.walk v n (s.advanceWalk 1)
  | .blank => s.walkStops v
  | .invalid => s.walkStops v
  | .valid img => walkImage s v n loc img (s.currentEntry loc img)

theorem walk_ends (h : 256 ≤ s.reclaim.walkUnit) : State.walk v (n + 1) s = s.victimMoved v := by
  rw [State.walk]
  exact if_pos h

section

variable (hw : s.reclaim.walkUnit < 256)
include hw

/-- Inside the sector the read path decides. -/
theorem walk_inside : State.walk v (n + 1) s = walkRead s v n (readImage s.array.mem v s.reclaim.walkUnit) := by
  rw [State.walk, if_neg (show ¬ Config.sectorUnits ≤ s.reclaim.walkUnit from Nat.not_le.2 hw)]
  rfl

theorem walk_fill (hr : readImage s.array.mem v s.reclaim.walkUnit = .fill) :
    State.walk v (n + 1) s = State.walk v n (s.setReclaim { s.reclaim with walkUnit := s.reclaim.walkUnit + 1 }) := by
  rw [walk_inside hw, hr]
  rfl

/-- R124: the read fault is an entry at or beyond the bytes that end the walk. -/
theorem walk_stops (hr : readImage s.array.mem v s.reclaim.walkUnit = .blank ∨ readImage s.array.mem v s.reclaim.walkUnit = .invalid) :
    State.walk v (n + 1) s =
      if s.entryBeyond v s.reclaim.walkUnit then s.moveEndsEarly v true else s.victimMoved v := by
  rw [walk_inside hw]
  rcases hr with hr | hr <;> rw [hr] <;> rfl

variable (hr : readImage s.array.mem v s.reclaim.walkUnit = .valid img) (hl : loc = { sector := v, unit := s.reclaim.walkUnit })
include hr hl

theorem walk_image : State.walk v (n + 1) s = walkImage s v n loc img (s.currentEntry loc img) := by
  rw [walk_inside hw, hr, hl]
  rfl

theorem walk_passes (hc : s.currentEntry loc img = none) :
    State.walk v (n + 1) s = State.walk v n ((s.trackWalk loc img).advanceWalk img.units) := by
  rw [walk_image hw hr hl, hc]
  rfl

variable (hc : s.currentEntry loc img = some e)
include hc

theorem walk_denied (ha : ¬ State.imageAgrees img e = true) : State.walk v (n + 1) s = s.moveEndsEarly v true := by
  rw [walk_image hw hr hl, hc]
  exact if_neg ha

theorem walk_drops (ha : State.imageAgrees img e = true) (hd : s.dropsVoid e = true) :
    State.walk v (n + 1) s = State.walk v n (((s.trackWalk loc img).markDrop e.key).advanceWalk img.units) := by
  rw [walk_image hw hr hl, hc]
  exact (if_pos ha).trans (if_pos hd)

theorem walk_copies (ha : State.imageAgrees img e = true) (hd : ¬ s.dropsVoid e = true) :
    State.walk v (n + 1) s = (s.trackWalk loc img).placeCopy v img.copyOf := by
  rw [walk_image hw hr hl, hc]
  exact (if_pos ha).trans (if_neg hd)

end

/-! ### A COPY without a sector (R31, R130) -/

theorem place_noErased (h : ∀ k, (s.sec k).state ≠ .erased) :
    (∀ i, s.activeSector = some i → 256 - (s.sec i).nextFree < img.units → s.place img = (withClosed s i, false)) ∧
    (s.activeSector = none → s.place img = (s, false)) := by
  have hunchosen : ∀ t : State, (∀ k, (t.sec k).state ≠ .erased) → t.chooseErased = none := fun t ht =>
    Option.eq_none_iff_forall_not_mem.2 fun k hk => ht k ((chooseErased_spec t).1 k hk).1
  refine ⟨fun i ha hu => ?_, fun ha => ?_⟩
  · have hclosed : ∀ k, ((withClosed s i).sec k).state ≠ .erased := fun k => by
      rw [withClosed, State.setSec_sec]
      split
      · exact nofun
      · exact h k
    unfold State.place State.tryActivate
    rw [ha]
    dsimp only
    rw [if_neg (show ¬ img.units ≤ (s.sec i).free from Nat.not_le.2 hu), closeActive_eq ha, hunchosen _ hclosed]
  · unfold State.place State.tryActivate
    rw [ha]
    dsimp only
    rw [hunchosen s h]

theorem placeCopy_unplaced {t : State} (h : s.place img = (t, false)) : s.placeCopy v img = t.moveEndsEarly v false := by
  unfold State.placeCopy
  rw [h]

/-- R125, R130: a COPY placed is begun, and one that finds no place ends the phase early. -/
theorem placeCopy_cases (s : State) (v : Sector) (img : Image) :
    (∀ t, Placed s img t → s.placeCopy v img = t) ∧
    ((∀ k, (s.sec k).state ≠ .erased) →
      (∀ i, s.activeSector = some i → 256 - (s.sec i).nextFree < img.units → s.placeCopy v img = (withClosed s i).moveEndsEarly v false) ∧
      (s.activeSector = none → s.placeCopy v img = s.moveEndsEarly v false)) := by
  refine ⟨fun t => placeCopy_placed, fun hnone => ?_⟩
  obtain ⟨hsome, habsent⟩ := place_noErased (img := img) hnone
  exact ⟨fun i ha hu => placeCopy_unplaced (hsome i ha hu), fun ha => placeCopy_unplaced (habsent ha)⟩

/-- Settles O46: the grant, the walk by what the read path returns, the tracking of images, the tally, and the COPY of an image. -/
theorem moveWalks : Obligations.MoveWalks := by
  refine ⟨?_, ?_, ?_, fun tally key x => tallyCount_addTally tally key x, fun c key b g => ⟨rfl, rfl, rfl, rfl⟩⟩
  · intro v s counter free held hv
    have hgrant : s.grantMove = cycleOf held s.reclaim.rotation (some v) := grantMove_chosen hv
    have hfit : held.copiesFit v = true ↔ 254 - (s.sec v).waste ≤ free + 254 * s.erasedCount := copiesFit_iff
    refine ⟨fun hroom => ?_, fun hroom => ?_⟩
    · rw [hgrant, cycleOf_fits (hfit.2 hroom)]
      rfl
    · rw [hgrant, cycleOf_unfit (mt hfit.1 (Nat.not_le.2 hroom))]
  · intro v n s w loc after ends
    refine ⟨walk_ends, fun hw => ?_⟩
    have hends : (if s.entryBeyond v w then s.moveEndsEarly v true else s.victimMoved v) = ends :=
      ite_congr (propext entryBeyond_iff) (fun _ => rfl) fun _ => rfl
    cases hr : readImage s.array.mem v w with
    | fill => exact walk_fill hw hr
    | blank => exact (walk_stops hw (.inl hr)).trans hends
    | invalid => exact (walk_stops hw (.inr hr)).trans hends
    | valid img =>
      refine ⟨fun hold => walk_passes hw hr rfl (currentEntry_none hold), ?_⟩
      intro key e hk hf hl agrees drops
      have hcur : s.currentEntry loc img = some e := currentEntry_some hk hf hl
      have hagrees : State.imageAgrees img e = true ↔ agrees := imageAgrees_iff hk
      refine ⟨fun ha => walk_denied hw hr rfl hcur (mt hagrees.1 ha), fun ha hd => ?_, fun ha hd => ?_⟩
      · have hafter : after = _ := walk_drops hw hr rfl hcur (hagrees.2 ha) (dropsVoid_iff.2 hd)
        rw [hafter, (find_some hf).2, markDrop_eq]
        rfl
      · have hafter : after = (s.trackWalk loc img).placeCopy v img.copyOf := walk_copies hw hr rfl hcur (hagrees.2 ha) (mt dropsVoid_iff.1 hd)
        rw [hafter]
        exact placeCopy_cases (s.trackWalk loc img) v img.copyOf
  · intro d loc img o tally tracked current place
    refine ⟨?_, fun key _ => ⟨trackImage_copy_cases, trackImage_commit_cases⟩⟩
    rintro m count rfl
    refine ⟨?_, fun hn => trackImage_otherMark hn⟩
    rintro t rfl rfl
    exact trackImage_ownMark

end Sys2Proof.Proofs
end

section
/-!
PROOFS. The heads (R139, R140, R145, R147): the class of each sector, the part-wide state, the rows and the repair's list that they give, and
the scan without a valid erase record.
-/

namespace Sys2Proof.Proofs

open Sys2Proof.Machine Sys2Proof.Safety Sys2Proof.Laws

variable {s : State} {m : Memory} {i : Sector} {epoch : Word}

/-! ### The classes (R139) -/

theorem classify_fresh (h0 : unitBlank m i 0 = true) : classify m i = if blankFrom m i 1 then .blank else .damaged := by
  unfold classify
  exact if_pos h0

theorem classify_noRecord (h0 : unitBlank m i 0 = false) (hr : readEraseRecord m i = none) : classify m i = .damaged := by
  unfold classify
  rw [if_neg (by simp [h0]), hr]
  rfl

theorem classify_recorded (h0 : unitBlank m i 0 = false) (hr : readEraseRecord m i ≠ none) : classify m i =
    if unitBlank m i 1 then .erased else if (readActivation m i).isSome then .inUse else .damaged := by
  unfold classify
  rw [if_neg (by simp [h0]), if_pos (Option.isSome_iff_ne_none.2 hr)]

/-! ### The scan by what the heads hold (R147) -/

theorem headsOf_all_blank : ((headsOf m).all fun h => h.2.cls == .blank) = true ↔ ∀ i, classify m i = .blank := by
  rw [List.all_eq_true]
  refine ⟨fun h i => eq_of_beq (h (i, headOf m i) (mem_headsOf.2 rfl)), fun h x hx => ?_⟩
  rw [mem_headsOf.1 hx]
  exact beq_iff_eq.2 (h x.1)

theorem scan_noEpoch (h : currentEpoch (headsOf s.array.mem) = none) :
    s.scan = if (headsOf s.array.mem).all fun h => h.2.cls == .blank then s.initialise else s.unformatted := by
  unfold State.scan
  dsimp only
  rw [h]

theorem scan_epoch (h : currentEpoch (headsOf s.array.mem) = some epoch) :
    s.scan = (s.takeHeads epoch (headsOf s.array.mem)).scanReplay.repairGoesOn := by
  unfold State.scan
  dsimp only
  rw [h]

/-! ### Rows and tasks (R140, R145) -/

/-- R140: a valid erase record of the sector is of the epoch. -/
abbrev InEpoch (m : Memory) (epoch : Word) (i : Sector) : Prop :=
  (readEraseRecord m i).map Prod.fst = some epoch

/-- The row of a sector that is not retired by its class, in the epoch or of another. -/
theorem headRow_standing {retired : BitVec 48} {L : Nat} (hr : ¬ retired.getLsbD i.val = true) :
    headRow epoch retired L i (headOf m i) =
      let count := ((readEraseRecord m i).map Prod.snd).getD L
      if classify m i = .erased ∧ InEpoch m epoch i then { SectorRow.start with state := .erased, eraseCount := count }
      else if classify m i = .inUse ∧ InEpoch m epoch i then
        { SectorRow.start with state := .full, eraseCount := count, sequence := (readActivation m i).map Prod.fst }
      else SectorRow.start := by
  unfold headRow
  dsimp only
  rw [if_neg hr]
  by_cases he : InEpoch m epoch i
  · rw [inEpoch_current he]
    cases classify m i with
    | erased => exact (if_pos ⟨rfl, he⟩).symm
    | inUse => exact ((if_neg nofun).trans (if_pos ⟨rfl, he⟩)).symm
    | _ => rfl
  · rw [inEpoch_other he]
    refine Eq.trans ?_ ((if_neg fun h => he h.2).trans (if_neg fun h => he h.2)).symm
    cases classify m i <;> rfl

theorem headRow_retired {retired : BitVec 48} {L : Nat} (hr : retired.getLsbD i.val = true) :
    headRow epoch retired L i (headOf m i) =
      { SectorRow.start with state := .retired, eraseCount := ((readEraseRecord m i).map Prod.snd).getD L } := by
  unfold headRow
  exact if_pos hr

/-- R145: what the repair takes of the sectors, each by its class and its epoch. -/
theorem repairTasks_eq (retired : BitVec 48) : repairTasks epoch retired (headsOf m) =
    (List.finRange 48).filterMap fun i =>
      if retired.getLsbD i.val then none
      else if classify m i = .damaged then some { sector := i, kind := .damaged }
      else if classify m i = .blank then some { sector := i, kind := .blank }
      else if InEpoch m epoch i then none
      else some { sector := i, kind := .staleEpoch } := by
  unfold repairTasks headsOf allSectors
  rw [List.filterMap_map]
  congr 1
  funext i
  dsimp only [Function.comp]
  by_cases hr : retired.getLsbD i.val = true
  · rw [if_pos hr, if_pos hr]
  rw [if_neg hr, if_neg hr]
  by_cases he : InEpoch m epoch i
  · rw [inEpoch_current he, if_pos he]
    cases hc : classify m i with
    | staleEpoch => exact absurd hc (classify_ne_staleEpoch m i)
    | _ => rfl
  · rw [inEpoch_other he, if_neg he]
    cases classify m i <;> rfl

/-! ### The retired set (R140) -/

/-- The IN-USE sectors of the epoch, whose activation records carry the retired set. -/
abbrev InUseNow (m : Memory) (epoch : Word) (i : Sector) : Prop :=
  classify m i = .inUse ∧ InEpoch m epoch i

theorem latestActivation_none (h : ∀ i, ¬ InUseNow m epoch i) : latestActivation (activations epoch (headsOf m)) = none := by
  refine (latestActivation_spec _).1.2 (List.eq_nil_iff_forall_not_mem.2 fun a ha => ?_)
  obtain ⟨i, hi, -⟩ := mem_activations.1 ha
  exact h i hi

/-- Of the activation records of the IN-USE sectors of the epoch one has the highest sequence. -/
theorem latestActivation_highest (h : ∃ i, InUseNow m epoch i) :
    ∃ b, latestActivation (activations epoch (headsOf m)) = some b ∧ (∃ i, InUseNow m epoch i ∧ readActivation m i = some b) ∧
      ∀ k a, InUseNow m epoch k → readActivation m k = some a → a.1.toNat ≤ b.1.toNat := by
  obtain ⟨i, hi⟩ := h
  obtain ⟨a, ha⟩ := Option.isSome_iff_exists.1 (activation_of_inUse hi.1)
  obtain ⟨hnone, hsome⟩ := latestActivation_spec (activations epoch (headsOf m))
  have hmem : a ∈ activations epoch (headsOf m) := mem_activations.2 ⟨i, hi, ha⟩
  obtain ⟨b, hb⟩ := Option.ne_none_iff_exists'.1 fun h => List.ne_nil_of_mem hmem (hnone.1 h)
  obtain ⟨hin, hmax⟩ := hsome b hb
  exact ⟨b, hb, mem_activations.1 hin, fun k a hk ha => hmax a (mem_activations.2 ⟨k, hk, ha⟩)⟩

/-- Settles O8: the classes, the scan without a record, and what the heads give the part with one. -/
theorem scanReadsHeads : Obligations.ScanReadsHeads := by
  intro s m record activation
  obtain ⟨hnone, hsome⟩ := currentEpoch_spec m
  refine ⟨fun i => ⟨fun h0 h1 => ?_, fun h0 h1 => ?_, classify_noRecord, fun h0 hr => ?_⟩, hnone, fun h => ⟨fun hb => ?_, fun hb => ?_⟩,
    fun epoch h => ?_⟩
  · rw [classify_fresh h0, if_pos h1]
  · rw [classify_fresh h0, if_neg (by simp [h1])]
  · rw [classify_recorded h0 hr]
    refine ⟨fun h1 => if_pos h1, fun h1 (ha : readActivation m i ≠ none) => ?_, fun h1 (ha : readActivation m i = none) => ?_⟩
    · rw [if_neg (by simp [h1]), if_pos (Option.isSome_iff_ne_none.2 ha)]
    · rw [if_neg (by simp [h1]), ha]
      rfl
  · rw [scan_noEpoch h, if_pos (headsOf_all_blank.2 hb)]
  · obtain ⟨i, hi⟩ := hb
    rw [scan_noEpoch h, if_neg fun hx => hi (headsOf_all_blank.1 hx i)]
  · intro t inEpoch inUse retired L count
    obtain ⟨hepoch, hmem, hdir, hL, hset, hrec, hseq, htodo, hsec⟩ := takeHeads_spec s epoch (headsOf m)
    obtain ⟨⟨i, n, hi⟩, hmax⟩ := hsome epoch h
    obtain ⟨hle, hex⟩ := largestCount_spec m
    have hL' : L = largestCount (headsOf m) := hL
    refine ⟨scan_epoch h, hepoch, hmem, hdir, ⟨i, n, hi⟩, fun k e c hk => ⟨hmax k e c hk, hL' ▸ hle k e c hk⟩, hL' ▸ hex ⟨i, _, hi⟩,
      fun hu => ?_, fun hu => ?_, fun k => ?_, ?_⟩
    · have hl := latestActivation_none hu
      rw [hl] at hset hrec hseq
      exact ⟨hset, hrec, hseq⟩
    · obtain ⟨b, hl, ⟨k, hk, hb⟩, hhigh⟩ := latestActivation_highest hu
      rw [hl] at hset hrec hseq
      refine ⟨hrec, k, hk, ?_, fun j q r hj hq => ?_⟩
      · rw [hset, hseq]
        exact hb
      · rw [hseq]
        exact hhigh j (q, r) hj hq
    · have hrow := hsec k
      rw [← hL] at hrow
      by_cases hk : retired k
      · rw [if_pos hk]
        exact hrow.trans (headRow_retired hk)
      · rw [if_neg hk]
        exact hrow.trans (headRow_standing hk)
    · exact htodo.trans (repairTasks_eq _)

end Sys2Proof.Proofs
end

section
/-!
PROOFS. The repair, the initialisation and DECIDE (R145, R147 to R149): each task taken with its flag and its count, the end of the scan, and how
the ends of its operations go on.
-/

namespace Sys2Proof.Proofs

open Sys2Proof.Machine Sys2Proof.Safety Sys2Proof.Laws

variable {s t u : State} {i : Sector} {outcome : OpOutcome} {task : RepairTask} {rest : List RepairTask}

/-! ### A task of the repair (R145, R147) -/

/-- The part with the next task taken: its flag set, its sector's row with the count, the tasks after it left. -/
def repairTaken (s : State) (task : RepairTask) (rest : List RepairTask) : State :=
  (s.setSec task.sector { s.sec task.sector with eraseCount := s.repairCount task }).setMount
    { s.mount with
      flags := (s.setRepairFlags task.kind).mount.flags
      scan := { s.mount.scan with todo := rest } }

theorem repairTaken_worn (s : State) (task : RepairTask) (rest : List RepairTask) :
    (repairTaken s task rest).worn task.sector = true ↔ 100000 ≤ s.repairCount task := by
  rw [worn_iff, repairTaken, State.setMount_sec, State.setSec_sec_self]

/-- A BLANK or initialised sector is given its erase record. -/
theorem repairNext_record (h : task.kind = .blank ∨ task.kind = .initialise) :
    State.repairNext (task :: rest) s = (repairTaken s task rest).startOp (.eraseRecord task.sector) := by
  obtain ⟨sector, kind⟩ := task
  rcases h with h | h <;> (cases h; rfl)

/-- A DAMAGED sector or one of another epoch is erased, or, worn, retired. -/
theorem repairNext_erase (h : task.kind = .damaged ∨ task.kind = .staleEpoch) : State.repairNext (task :: rest) s =
    if (repairTaken s task rest).worn task.sector then State.repairNext rest ((repairTaken s task rest).retire task.sector .scan)
    else (repairTaken s task rest).startOp (.erase task.sector) := by
  obtain ⟨sector, kind⟩ := task
  rcases h with h | h <;> (cases h; rfl)

/-! ### DECIDE (R147, R148) -/

/-- The start flags byte as the sum of its four bits (10.2.3). -/
theorem startFlags_byte (f : StartFlags) : f.byte =
    (if f.torn then 1 else 0) + (if f.repaired then 2 else 0) + (if f.epochCleaned then 4 else 0) + (if f.initialised then 8 else 0) := by
  obtain ⟨a, b, c, d⟩ := f
  cases a <;> cases b <;> cases c <;> cases d <;> rfl

theorem atLowWater_setTenancy (s : State) (x : Tenancy) : atLowWater (s.setTenancy x) = (atLowWater s).setTenancy x := by
  unfold atLowWater
  by_cases h : CycleWanted s
  · rw [if_pos (by exact h), if_pos h]
    rfl
  · rw [if_neg (by exact h), if_neg h]

theorem scanEnds_eq (s : State) (mode : StoreMode) : s.scanEnds mode =
    (atLowWater ((s.offerBoth .started (s.mount.cause.code.zeroExtend 16) (s.mount.flags.byte.zeroExtend 32)).setMount
      { s.mount with mode := mode, activity := .none, phase := .decide, scan := { s.mount.scan with todo := [] } })).setTenancy .none := by
  unfold State.scanEnds
  dsimp only
  rw [lowWater_eq, atLowWater_setTenancy]
  rfl

/-! ### The ends of its operations (R145, R149) -/

/-- From the state that the operation's end leaves, the command stops the scan or goes on with the next task. -/
theorem scan_goesOn {c : Instr} {ok : Bool} (hc : exec c s = .next t.settle) (ht : t = u.sectorTaken i ok)
    (hten : u.array.tenancy = .scan) (hscan : u.mount.scan = s.mount.scan) :
    (u.stopped = true → exec c s = .next u.scanStops.settle) ∧
    (u.stopped = false → exec c s = .next (State.repairNext s.mount.scan.todo u).settle) := by
  have htaken : u.sectorTaken i ok = if u.stopped then u.scanStops else State.repairNext s.mount.scan.todo u := by
    unfold State.sectorTaken State.repairGoesOn
    rw [hten, hscan]
  rw [hc, ht, htaken]
  exact ⟨fun h => by rw [if_pos h], fun h => by rw [if_neg (by simp [h])]⟩

theorem eraseEnds_failed_scan (hd : outcome ≠ .done) (ht : s.array.tenancy = .scan) : s.eraseEnds i outcome =
    (((eraseCounted s i).retire i .scan).scribble (i.val * 4096) 4096).sectorTaken i false := by
  unfold State.eraseEnds State.failReason
  rw [if_neg hd, if_pos ht, eraseStepFailed_eq, raiseEraseCount_clearOp]

theorem eraseRecordEnds_failed_scan (hd : outcome ≠ .done) (ht : s.array.tenancy = .scan) : s.eraseRecordEnds i outcome =
    ((s.clearOp.retire i .scan).scribble (i.val * 4096) 16).sectorTaken i false := by
  unfold State.eraseRecordEnds State.failReason
  rw [if_neg hd, if_pos ht, eraseRecordFailed_eq]

/-- A retirement with free bytes after it keeps the scan's record. -/
theorem retire_scribble_scan (s : State) (i : Sector) (reason : WearReason) (a n : Nat) :
    ((s.retire i reason).scribble a n).mount.scan = s.mount.scan := by
  rw [scribble_mount, State.retire_mount]

/-- Settles O43: a task by its kind, the end and the beginnings of the scan, and the ends of its operations. -/
theorem repairAndDecide : Obligations.RepairAndDecide := by
  refine ⟨fun task rest s => ?_, fun s => ?_, fun i outcome s hr ht => ?_⟩
  · intro i flags L count taken
    have hcount : s.repairCount task = count := rfl
    have htaken : repairTaken s task rest = taken := by
      obtain ⟨sector, kind⟩ := task
      cases kind <;> rfl
    have hworn := repairTaken_worn s task rest
    rw [hcount, htaken] at hworn
    refine ⟨fun h => (repairNext_record h).trans (by rw [htaken]), fun h => ⟨fun hc => ?_, fun hc => ?_⟩⟩
    · rw [repairNext_erase h, htaken, if_pos (hworn.2 hc)]
    · rw [repairNext_erase h, htaken, if_neg (mt hworn.1 (Nat.not_le.2 hc))]
  · intro mode flags byte decided
    have hdecided : ∀ (v : State) (m : StoreMode), v.mount.flags = s.mount.flags → v.scanEnds m = decided v m := by
      intro v m hv
      rw [scanEnds_eq, startFlags_byte, hv]
    exact ⟨hdecided s mode rfl, rfl, hdecided _ .unformatted rfl⟩
  · intro stopped goesOn counted told
    refine ⟨fun ho => ?_, fun ho hd => ?_, fun ho hd => ?_⟩
    · exact scan_goesOn (exec_eraseRecordComplete hr ho) (by rw [← eraseRecordDone_eq]; rfl) ht rfl
    · obtain ⟨hten, -, -⟩ := retire_scribble_frame s.clearOp i .scan (i.val * 4096) 16
      exact scan_goesOn (exec_eraseRecordComplete hr ho) (eraseRecordEnds_failed_scan hd ht) (hten.trans ht) (retire_scribble_scan _ _ _ _ _)
    · obtain ⟨hten, -, -⟩ := retire_scribble_frame (eraseCounted s i) i .scan (i.val * 4096) 4096
      exact scan_goesOn (exec_eraseComplete hr ho) (eraseEnds_failed_scan hd ht) (hten.trans ((eraseCounted_tenancy s i).trans ht))
        ((retire_scribble_scan _ _ _ _ _).trans (congrArg MountUnit.scan (eraseCounted_mount s i)))

end Sys2Proof.Proofs
end

section
/-!
PROOFS. Requests in a mode in which their owners do not answer (R70, R87, R138, R151, R154).
-/

namespace Sys2Proof.Proofs

open Sys2Proof.Machine Sys2Proof.Safety Sys2Proof.Laws

variable {s : State} {l : Link} {sq n privilege lease cls count : Byte} {key offset : Half} {expected : Option Word} {delta : Word}
  {bytes : List Byte} {r : Result}

/-! ### The store mode check of each owner -/

/-- What a mode refuses of a request it refuses of a staging request too (R70). -/
theorem stagingModeRefusal_of_mode {m : StoreMode} (h : modeRefusal m = some r) : stagingModeRefusal m = some r := by
  cases m with
  | mounting | formatting | halted => exact h
  | ready | readOnly | unformatted => cases h

section

variable (h : modeRefusal s.mount.mode = some r)
include h

theorem reading_refused : requestRead l sq key offset count s = s.refuse l sq .read r ∧
    requestList l sq key count s = s.refuse l sq .list r := by
  unfold requestRead requestList
  rw [h]
  exact ⟨rfl, rfl⟩

theorem sessionRequests_refused :
    requestOpen l sq privilege lease s = s.refuse l sq .openSession r ∧ requestRenew l sq privilege lease s = s.refuse l sq .renew r ∧
    requestClose l sq s = s.refuse l sq .close r ∧ requestWatch l sq key s = s.refuse l sq .watch r ∧
    requestUnwatch l sq key s = s.refuse l sq .unwatch r := by
  unfold requestOpen requestRenew requestClose requestWatch requestUnwatch
  rw [h]
  exact ⟨rfl, rfl, rfl, rfl, rfl⟩

theorem serviceRefusal_mode : serviceRefusal s l = some r := by
  unfold serviceRefusal
  rw [h]

/-- R87, R108: COMMIT names the mode first, and carries the zeros of its fixed part. -/
theorem commit_refused_mode : requestCommit l sq s = s.refuse l sq .commit r := by
  have hrefuse : ∀ x : Result, s.refuseCommit l sq x 0 = s.refuse l sq .commit x := fun x => by
    unfold State.refuseCommit
    rw [commitFields_none]
    rfl
  rw [← hrefuse]
  unfold requestCommit
  cases hm : s.mount.mode with
  | mounting | formatting | halted =>
    rw [hm] at h
    cases h
    rfl
  | ready | readOnly | unformatted =>
    rw [hm] at h
    cases h

end

/-- R164, R165: NOTICES and ACK are answered in every mode but HALTED. -/
theorem notices_refused (h : noticesRefusal s l = some r) :
    requestNotices l sq s = s.refuse l sq .notices r ∧ requestAck l sq n s = s.refuse l sq .ack r := by
  unfold requestNotices requestAck
  rw [h]
  exact ⟨rfl, rfl⟩

/-! ### All of them on a link -/

/-- The requests whose owners check the store mode before all else, each with its reply's kind and the length of its fixed part. -/
def modeRequests (l : Link) (sq privilege lease cls count : Byte) (key offset : Half) (expected : Option Word) (delta : Word)
    (bytes : List Byte) : List (Instr × Byte × Nat) :=
  [(.openSession l sq privilege lease, 0x90, 4), (.renew l sq privilege lease, 0x91, 5), (.close l sq, 0x92, 3),
    (.read l sq key offset count, 0xA0, 7), (.list l sq key count, 0xA1, 3), (.put l sq key cls expected bytes, 0xB0, 5),
    (.append l sq key bytes, 0xB1, 3), (.add l sq key delta, 0xB2, 5), (.delete l sq key expected, 0xB3, 5), (.drop l sq key, 0xB4, 5),
    (.staged l sq, 0xB5, 1), (.abort l sq, 0xB6, 1), (.commit l sq, 0xC0, 8), (.watch l sq key, 0xD0, 1), (.unwatch l sq key, 0xD1, 1),
    (.reclaim l sq, 0xE0, 1), (.format l sq, 0xE1, 0), (.restart l sq, 0xE2, 0)]

/-- Each is refused what the mode refuses, and nothing changes but the lease and the reply. -/
theorem modeRequests_refused (h : PassesFree s l sq) (hlen : bytes.length ≤ 224) (hm : modeRefusal s.mount.mode = some r) :
    ∀ x ∈ modeRequests l sq privilege lease cls count key offset expected delta bytes,
      exec x.1 s = .next (refusedWith s l sq x.2.1 r.code x.2.2) := by
  have hfits : decide (bytes.length ≤ Config.maxPart) = true := decide_eq_true hlen
  have hm' : modeRefusal (atOwner s l).mount.mode = some r := hm
  have hstaging := fun k => stagingRefusal_mode (l := l) (k := k) (stagingModeRefusal_of_mode hm')
  obtain ⟨hopen, hrenew, hclose, hwatch, hunwatch⟩ := sessionRequests_refused (l := l) (sq := sq) (privilege := privilege)
    (lease := lease) (key := key) hm'
  obtain ⟨hread, hlist⟩ := reading_refused (l := l) (sq := sq) (key := key) (offset := offset) (count := count) hm'
  obtain ⟨hput, happend, hadd, hdelete, hdrop⟩ := staging_refused (sq := sq) (cls := cls) (expected := expected) (delta := delta)
    (bytes := bytes) (hstaging (some key))
  obtain ⟨hstaged, habort⟩ := stagedAbort_refused (sq := sq) (hstaging none)
  obtain ⟨hreclaim, hformat, hrestart⟩ := service_refused (sq := sq) (serviceRefusal_mode (l := l) hm')
  simp only [modeRequests, List.forall_mem_cons]
  exact ⟨congrArg _ (takeRequest_refused h rfl hopen), congrArg _ (takeRequest_refused h rfl hrenew),
    congrArg _ (takeRequest_refused h rfl hclose), congrArg _ (takeRequest_refused h rfl hread),
    congrArg _ (takeRequest_refused h rfl hlist), congrArg _ (takeRequest_refused h hfits hput),
    congrArg _ (takeRequest_refused h hfits happend), congrArg _ (takeRequest_refused h rfl hadd),
    congrArg _ (takeRequest_refused h rfl hdelete), congrArg _ (takeRequest_refused h rfl hdrop),
    congrArg _ (takeRequest_refused h rfl hstaged), congrArg _ (takeRequest_refused h rfl habort),
    congrArg _ (takeRequest_refused h rfl (commit_refused_mode hm')), congrArg _ (takeRequest_refused h rfl hwatch),
    congrArg _ (takeRequest_refused h rfl hunwatch), congrArg _ (takeRequest_refused h rfl hreclaim),
    congrArg _ (takeRequest_refused h rfl hformat), congrArg _ (takeRequest_refused h rfl hrestart), List.forall_mem_nil _⟩

/-- Settles O12: by the mode. -/
theorem modeRefusesRequests : Obligations.ModeRefusesRequests := by
  intro l sq n privilege lease cls count key offset expected delta bytes s h hlen refused others
  refine ⟨fun hm => ?_, fun hm => modeRequests_refused h hlen (r := .notReady) (modeRefusal_notReady hm)⟩
  have hothers : ∀ x ∈ others, refused x 0x12 := modeRequests_refused h hlen (r := .halted) (by rw [hm]; rfl)
  obtain ⟨hnotices, hack⟩ := notices_refused (s := atOwner s l) (l := l) (sq := sq) (n := n) (r := .halted) (if_pos hm)
  exact List.forall_mem_cons.2 ⟨congrArg _ (takeRequest_refused h rfl hnotices),
    List.forall_mem_cons.2 ⟨congrArg _ (takeRequest_refused h rfl hack), hothers⟩⟩

end Sys2Proof.Proofs
end

section
/-!
PROOFS. RESTART (R153): what its acceptance owes, and the start that begins once the reply is gone and no operation is in flight.
-/

namespace Sys2Proof.Proofs

open Sys2Proof.Machine Sys2Proof.Safety Sys2Proof.Laws

variable {s : State} {l : Link} {sq : Byte}

/-! ### The request -/

theorem exec_restart (h : PassesFree s l sq) : exec (.restart l sq) s = .next (requestRestart l sq (atOwner s l)) :=
  congrArg Host.Outcome.next (takeRequest_free h .restart (requestRestart l sq))

/-- R153: an owed RESTART stays as it is; otherwise its reply stands behind the frames in the queue. -/
theorem oweRestart_eq (s : State) (ahead : Nat) : s.oweRestart ahead =
    s.setMount { s.mount with restart := if s.mount.restart = .none then .replyQueued ahead else s.mount.restart } := by
  unfold State.oweRestart
  by_cases h : s.mount.restart = .none
  · rw [if_pos h, if_pos h]
  · rw [if_neg h, if_neg h]
    rfl

section

variable (hr : serviceRefusal s l = none)
include hr

theorem requestRestart_busy (hq : s.commit.queue ≠ []) : requestRestart l sq s = s.refuse l sq .restart .busy := by
  unfold requestRestart
  rw [hr]
  exact if_pos (by simpa using hq)

theorem requestRestart_accepted (hq : s.commit.queue = []) :
    requestRestart l sq s = (s.oweRestart (s.link l).replies.length).answer l sq .restart .ok [] := by
  unfold requestRestart
  rw [hr]
  exact if_neg (by simp [hq])

end

/-- A change of the mount unit and a reply do not meet. -/
theorem setMount_answer (m : MountUnit) (k : ReqKind) (r : Result) (rest : List Byte) :
    (s.setMount m).answer l sq k r rest = (s.answer l sq k r rest).setMount m := rfl

/-! ### The start -/

theorem start_running (cause : StartCause) (hp : s.pins.pfailAsserted = false) :
    s.start cause = (State.started cause s.pins s.array.mem s.pending s.freeCount).scan.settle := by
  unfold State.start
  exact if_neg (by simp [hp])

theorem restartDue_iff (hr : s.running = true) : restartDue s = true ↔ s.mount.restart = .replyGone ∧ s.array.op = none := by
  unfold restartDue
  simp [hr]

/-- Settles O41: the request by the commit queue, the start by whether it is due. -/
theorem restartOwesStart : Obligations.RestartOwesStart := by
  intro l sq s
  refine ⟨fun h hm ho => ?_, fun hr hp => ⟨fun hd => ?_, fun hd => ?_⟩⟩
  · have hnone : serviceRefusal (atOwner s l) l = none := serviceRefusal_none hm ho
    rw [exec_restart h]
    refine ⟨fun hq => ?_, fun hq => ?_⟩
    · rw [requestRestart_busy (s := atOwner s l) hnone hq, refuse_atOwner]
      rfl
    · rw [requestRestart_accepted (s := atOwner s l) hnone hq, oweRestart_eq, setMount_answer, answer_atOwner, atOwner_link_self]
      rfl
  · show Host.Outcome.next (if restartDue s then s.start .restartRequest else s) = _
    rw [if_pos ((restartDue_iff hr).2 hd), start_running _ hp]
  · show Host.Outcome.next (if restartDue s then s.start .restartRequest else s) = _
    rw [if_neg (mt (restartDue_iff hr).1 hd)]

end Sys2Proof.Proofs
end

section
/-!
PROOFS. REPLY_SENT (R153, R178, R184) and the levels of a receive line (R174).
-/

namespace Sys2Proof.Proofs

open Sys2Proof.Machine Sys2Proof.Safety Sys2Proof.Laws

variable {s : State} {l : Link}

/-- R153, R178: the oldest frame leaves the queue; on Link S the RESTART reply comes one nearer. -/
theorem replyLeaves_eq (hr : s.running = true) (hq : (s.link l).replies ≠ []) : replyLeaves l s =
    (s.setLink l ((s.link l).withReplies (s.link l).replies.tail)).setMount
      { s.mount with restart := if l = .s then s.mount.restart.sent else s.mount.restart } := by
  unfold replyLeaves
  rw [if_pos ⟨hr, hq⟩]
  cases l <;> rfl

theorem replyLeaves_empty (hq : (s.link l).replies = []) : replyLeaves l s = s :=
  if_neg fun h => h.2 hq

theorem lineToSpace_mark (hr : s.running = true) (hk : (s.link l).line = .mark) :
    lineToSpace l s = (s.setRxSpace l true).setLink l { s.link l with line := .space, breakTimer := 0 } :=
  if_pos ⟨hr, hk⟩

theorem lineToSpace_other (hk : (s.link l).line ≠ .mark) : lineToSpace l s = s.setRxSpace l true :=
  if_neg fun h => hk h.2

theorem lineToMark_running (hr : s.running = true) :
    lineToMark l s = (s.setRxSpace l false).setLink l { s.link l with line := .mark, breakTimer := 0 } :=
  if_pos hr

/-- Settles O47: the reply queue with a frame and without one, and the two levels. -/
theorem replySentAndLineLevels : Obligations.ReplySentAndLineLevels := by
  intro l s hr k spaced nearer
  have hnearer : s.mount.restart.sent = nearer := rfl
  refine ⟨fun f rest hq => ?_, fun hq => congrArg _ (replyLeaves_empty hq), fun hk => congrArg _ (lineToSpace_mark hr hk),
    fun hk => congrArg _ (lineToSpace_other hk), congrArg _ (lineToMark_running hr)⟩
  intro line
  have hline : txOf rest = line := by cases rest <;> rfl
  show Host.Outcome.next (replyLeaves l s) = _
  rw [replyLeaves_eq hr (by rw [hq]; nofun), hnearer, hq, ← hline]
  rfl

end Sys2Proof.Proofs
end

section
/-!
PROOFS. SUPPLY_LOSS and RESET_ASSERT, and the starts that the pins and the supply begin (R136, R137, R149, R152, R166, R184).
-/

namespace Sys2Proof.Proofs

open Sys2Proof.Machine Sys2Proof.Safety Sys2Proof.Laws

variable {s : State}

/-! ### The operation cut off (R136, R149) -/

theorem cutOff_none (h : s.array.op = none) : s.cutOff = s := by
  unfold State.cutOff
  rw [h]

theorem cutOff_image {img : Image} {loc : Location} (h : s.array.op = some (.image img loc)) :
    s.cutOff = s.clearOp.scribbleUnits loc.sector loc.unit img.units := by
  unfold State.cutOff
  rw [h]

/-- `t` is `s` with bytes of the array changed, the free counter and the operation in flight, which has ended. -/
def EndsOperation (s t : State) : Prop :=
  t.array.op = none ∧ t = (s.setArray t.array).setFreeCount t.freeCount

theorem endsOperation_scribble (s : State) (i : Sector) (u n : Nat) : EndsOperation s (s.clearOp.scribbleUnits i u n) :=
  ⟨rfl, rfl⟩

theorem endsOperation_setMem {t : State} (h : EndsOperation s t) (m : Memory) : EndsOperation s (t.setMem m) := by
  obtain ⟨hop, ht⟩ := h
  exact ⟨hop, (congrArg (fun u : State => u.setMem m) ht).trans rfl⟩

theorem endsOperation_zeroHead {t : State} (h : EndsOperation s t) (i : Sector) : EndsOperation s (t.zeroHead i) := by
  unfold State.zeroHead State.writeHead
  exact endsOperation_setMem h _

theorem cutOff_endsOperation (s : State) : EndsOperation s s.cutOff := by
  unfold State.cutOff
  split
  · exact endsOperation_scribble s _ _ _
  · exact endsOperation_scribble s _ _ _
  · rename_i i _
    have h := endsOperation_scribble s i 0 Config.sectorUnits
    dsimp only
    split
    · exact h
    · exact endsOperation_zeroHead h i
  · rename_i i _
    have h := endsOperation_scribble s i 0 1
    dsimp only
    split
    · exact h
    · exact endsOperation_zeroHead h i
  · rename_i h
    exact ⟨h, rfl⟩

/-- R30: only the image's own units are left in an unknown state. -/
theorem scribbleUnits_read (s : State) (i : Sector) (u n : Nat) {a : Nat} (ha : a < unitAddress i u ∨ unitAddress i (u + n) ≤ a) :
    Memory.read (s.scribbleUnits i u n).array.mem a = Memory.read s.array.mem a := by
  rw [State.scribbleUnits_array]
  have hlen : (s.freeBytes (n * 16)).length = n * 16 := by simp [State.freeBytes]
  have hend : unitAddress i (u + n) = unitAddress i u + n * 16 := by
    simp only [unitAddress_eq, Nat.add_mul, Nat.add_assoc]
  exact Memory.read_writeBytes_other s.array.mem (unitAddress i u) (s.freeBytes (n * 16)) (by rwa [hlen, ← hend])

/-! ### What RESET and a loss of supply do at once (R136, R166, R184) -/

/-- Both notice queues empty, both transmit lines at mark. -/
def silenced (s : State) : State :=
  { s with
    notices := { p := { entries := [], attn := false }, s := { entries := [], attn := false } }
    links := { p := { s.links.p with tx := .mark }, s := { s.links.s with tx := .mark } } }

theorem cutShort_eq (s : State) : s.cutShort = silenced s.cutOff := rfl

theorem cutShort_none (h : s.array.op = none) : s.cutShort = silenced s := by
  rw [cutShort_eq, cutOff_none h]

theorem cutShort_frame (s : State) : s.cutShort.array.op = none ∧ s.cutShort.notices = (silenced s).notices ∧
    s.cutShort.pins = s.pins ∧ s.cutShort.links = (silenced s).links ∧ s.cutShort.directory = s.directory := by
  obtain ⟨hop, hrest⟩ := cutOff_endsOperation s
  rw [cutShort_eq]
  refine ⟨hop, ?_⟩
  rw [hrest]
  exact ⟨rfl, rfl, rfl, rfl⟩

theorem cutShort_read {img : Image} {loc : Location} (h : s.array.op = some (.image img loc)) {a : Nat}
    (ha : a < unitAddress loc.sector loc.unit ∨ unitAddress loc.sector (loc.unit + img.units) ≤ a) :
    Memory.read s.cutShort.array.mem a = Memory.read s.array.mem a := by
  have hmem : s.cutShort.array.mem = s.cutOff.array.mem := rfl
  rw [hmem, cutOff_image h]
  exact scribbleUnits_read s.clearOp _ _ _ ha

/-! ### The starts (R136, R137, R152) -/

theorem supplyReturns_eq (h : s.array.op = none) : supplyReturns s =
    let t := (silenced s).setPins { s.pins with supplied := true }
    if s.pins.resetAsserted then t else t.start .powerOn := by
  unfold supplyReturns supplyFalls
  rw [cutShort_none h]
  rfl

theorem resetReleases_supplied (hr : s.pins.resetAsserted = true) (hs : s.pins.supplied = true) :
    resetReleases s = (s.setPins { s.pins with resetAsserted := false }).start .resetPin :=
  (if_pos hr).trans (if_pos hs)

theorem resetReleases_released (hr : s.pins.resetAsserted = false) : resetReleases s = s :=
  if_neg (by simp [hr])

theorem supplyReturnDue_iff : supplyReturnDue s = true ↔
    s.running = true ∧ s.supply = .halted ∧ s.pins.pfailAsserted = false ∧ s.array.op = none := by
  simp [supplyReturnDue, and_assoc]

/-- Settles O49: the two cuts with no operation in flight and with one, then each start, due or not. -/
theorem supplyResetAndStarts : Obligations.SupplyResetAndStarts := by
  intro s empty still begun begins
  refine ⟨fun ho => ?_, ?_, rfl, fun ho hs => ?_, fun hr hs => ?_, fun hr => congrArg _ (resetReleases_released hr), fun hr hs hp ho => ?_,
    fun hn => ?_⟩
  · have hcut : s.cutShort = still := cutShort_none ho
    exact ⟨congrArg (fun t : State => Host.Outcome.next (t.setSupplied false)) hcut,
      congrArg (fun t : State => Host.Outcome.next (t.setResetPin true)) hcut⟩
  · obtain ⟨hop, hnotices, hpins, hlinks, hdir⟩ := cutShort_frame s
    have hread : ∀ img loc, s.array.op = some (.image img loc) → ∀ a,
        a < unitAddress loc.sector loc.unit ∨ unitAddress loc.sector (loc.unit + img.units) ≤ a →
        Memory.read s.cutShort.array.mem a = Memory.read s.array.mem a := fun img loc h a ha => cutShort_read h ha
    simp only [List.forall_mem_cons]
    refine ⟨⟨s.cutShort.setSupplied false, rfl, hop, hnotices, ?_, hlinks, hdir, hread⟩,
      ⟨s.cutShort.setResetPin true, rfl, hop, hnotices, ?_, hlinks, hdir, hread⟩, List.forall_mem_nil _⟩
    · exact congrArg (fun p : Pins => { p with supplied := false }) hpins
    · exact congrArg (fun p : Pins => { p with resetAsserted := true }) hpins
  · refine ⟨fun hr => ?_, fun hr => ?_⟩
    · exact congrArg _ ((supplyReturns_eq ho).trans (if_neg (by simp [hr])))
    · exact congrArg _ ((supplyReturns_eq ho).trans (if_pos hr))
  · exact congrArg _ (resetReleases_supplied hr hs)
  · exact congrArg _ (if_pos (supplyReturnDue_iff.2 ⟨hr, hs, hp, ho⟩))
  · refine congrArg _ (if_neg fun hd => ?_)
    obtain ⟨-, hs, hp, ho⟩ := supplyReturnDue_iff.1 hd
    rcases hn with h | h | h
    · rw [hs] at h
      cases h
    · rw [hp] at h
      cases h
    · exact h ho

end Sys2Proof.Proofs
end

section
/-!
PROOFS. The reset state: it meets each law, and its first step begins to initialise a blank array (R137, R139, R147).
-/

namespace Sys2Proof.Proofs

open Sys2Proof.Machine Sys2Proof.Safety Sys2Proof.Laws

variable {s : State}

/-! ### A blank array (R25, R139) -/

theorem readBytes_blank (a n : Nat) : Memory.readBytes [] a n = List.replicate n 0xFF := by
  induction n generalizing a with
  | zero => rfl
  | succ n ih => rw [Memory.readBytes, ih, List.replicate_succ]; rfl

/-- A blank unit is no erase record: its epoch would be FFFFFFFFH, which is out of range. -/
theorem readEraseRecord_blank (i : Sector) : readEraseRecord [] i = none := by
  have hepoch : numberInRange (toWord 0xFF 0xFF 0xFF 0xFF) = false := by decide
  unfold readEraseRecord readUnit
  rw [readBytes_blank]
  simp only [List.replicate, parseEraseRecord, hepoch, Bool.and_false, Bool.false_eq_true, if_false]

theorem classify_blank (i : Sector) : classify [] i = .blank := rfl

theorem scan_blank (h : s.array.mem = []) : s.scan = s.initialise := by
  have hnone : currentEpoch (headsOf []) = none := (currentEpoch_spec []).1.2 readEraseRecord_blank
  rw [scan_noEpoch (by rw [h, hnone]), h, if_pos (headsOf_all_blank.2 classify_blank)]

/-- R147: the initialisation gives epoch 1 and begins with the erase record of sector 0. -/
theorem initialise_begins (s : State) : ∃ rest : List RepairTask, s.initialise =
    (repairTaken ((s.setEpoch (some 1)).setMount
        { s.mount with phase := .decide, flags := { s.mount.flags with initialised := true } })
      { sector := 0, kind := .initialise } rest).startOp (.eraseRecord 0) := by
  refine ⟨(List.finRange 47).map fun i => { sector := i.succ, kind := .initialise }, ?_⟩
  have htasks : (allSectors.map fun i => ({ sector := i, kind := .initialise } : RepairTask)) =
      { sector := 0, kind := .initialise } :: (List.finRange 47).map fun i => { sector := i.succ, kind := .initialise } := by
    rw [allSectors, List.finRange_succ, List.map_cons, List.map_map]
    rfl
  unfold State.initialise
  dsimp only
  rw [htasks]
  exact repairNext_record (.inr rfl)

/-! ### The state at reset (R137) -/

theorem reset_row (l : Link) : State.reset.row l = .none := by cases l <;> rfl
theorem reset_link (l : Link) : State.reset.link l = .start false := by cases l <;> rfl
theorem reset_noticeQueue (l : Link) : State.reset.noticeQueue l = .start := by cases l <;> rfl

theorem reset_noActive : NoActive State.reset := fun i => by
  unfold State.inState State.reset
  rw [started_sec]
  rfl

theorem reset_stagingLaw : StagingLaw State.reset := by
  unfold StagingLaw
  simp only [reset_row]
  exact ⟨fun _ => by decide, fun _ => List.Pairwise.nil, fun _ => List.forall_mem_nil _, by decide, by decide⟩

theorem reset_noticeLaw : NoticeLaw State.reset := fun l => by
  rw [reset_noticeQueue]
  exact ⟨by decide, List.Pairwise.nil, by decide, List.forall_mem_nil _, rfl⟩

theorem reset_replyLaw : ReplyLaw State.reset := fun l => by
  rw [reset_link]
  decide

theorem reset_transmitLaw : TransmitLaw State.reset := fun l => by
  rw [reset_link]
  exact .inl rfl

theorem tick_scan (hr : s.running = true) (h : s.scanPending = true) : tick s = s.scan.settle :=
  (if_neg (by simp [hr])).trans (if_pos h)

/-- The first step reads the array. -/
theorem step_reset : step State.reset = .next State.reset.scan.settle := by
  rw [step_empty rfl, tick_scan rfl rfl]

/-- Settles O60: each law, and the first step by the initialisation of the blank array. -/
theorem resetMeetsLaws : Obligations.ResetMeetsLaws := by
  refine ⟨⟨List.Pairwise.nil, List.forall_mem_nil _⟩, List.Pairwise.nil, reset_stagingLaw, activeLaw_of_noActive reset_noActive,
    reset_noticeLaw, List.Pairwise.nil, reset_replyLaw, .inl rfl, reset_transmitLaw, ?_⟩
  obtain ⟨rest, hbegun⟩ := initialise_begins State.reset
  rw [step_reset, scan_blank rfl, hbegun]
  refine ⟨_, congrArg _ (State.settle_held nofun), rfl, rfl, rfl, rfl, rfl⟩

end Sys2Proof.Proofs
end

section
/-!
PROOFS. The notice queues: what every step keeps of them (law 9, R159), how a notice is taken (R161, R162), and NOTICES and ACK (R164, R165).
-/

namespace Sys2Proof.Proofs

open Sys2Proof.Machine Sys2Proof.Safety Sys2Proof.Laws

variable {g : Prop} {s t : State} {l : Link} {sq n : Byte} {q : List Notice} {kind : NoticeKind} {subject : Half} {detail : Word}

/-! ### Law 9 (R159, R166) -/

/-- In a lawful queue the line is that of its entries. -/
theorem noticeLawOf_entries {k : NoticeQueue} (h : NoticeLawOf k) : NoticeLawOf { entries := k.entries, attn := !k.entries.isEmpty } := by
  obtain ⟨hlen, hpairs, hkinds, hcounts, -⟩ := h
  exact ⟨hlen, hpairs, hkinds, hcounts, rfl⟩

/-- R164: marking the entries seen changes nothing that the law speaks of. -/
theorem seen_noticeLawOf {attn : Bool} (h : NoticeLawOf { entries := q, attn := attn }) :
    NoticeLawOf { entries := q.map fun n => { n with seen := true }, attn := !(q.map fun n => { n with seen := true }).isEmpty } := by
  obtain ⟨hlen, hpairs, hkinds, hcounts, -⟩ := h
  refine ⟨by simpa using hlen, List.Pairwise.map _ (fun _ _ hxy => hxy) hpairs, ?_, ?_, rfl⟩
  · rw [List.filter_map, List.length_map]
    exact hkinds
  · exact List.forall_mem_map.2 hcounts

/-- R165: what is left of a lawful queue when its oldest entries leave is lawful. -/
theorem drop_noticeLawOf {attn : Bool} (k : Nat) (h : NoticeLawOf { entries := q, attn := attn }) :
    NoticeLawOf { entries := q.drop k, attn := !(q.drop k).isEmpty } := by
  obtain ⟨hlen, hpairs, hkinds, hcounts, -⟩ := h
  have hsub := List.drop_sublist k q
  exact ⟨Nat.le_trans hsub.length_le hlen, hpairs.sublist hsub, Nat.le_trans (hsub.filter _).length_le hkinds,
    fun n hn => hcounts n (hsub.subset hn), rfl⟩

/-- Of the moves only a notice offered, the entries marked seen, the oldest entries removed and a start touch a queue. -/
theorem move_keeps_noticeLaw (m : Move g s t) (h : NoticeLaw s) : NoticeLaw t := by
  cases m with
  | offer l kind subject detail hk => exact setNotices_law l _ h fun hq => takeNotice_law _ _ _ _ hk (noticeLawOf_entries hq)
  | seen l => exact setNotices_law l _ h seen_noticeLawOf
  | ack l k => exact setNotices_law l _ h (drop_noticeLawOf k)
  | started cause =>
    have hempty : NoticeLawOf .start := reset_noticeLaw .p
    intro l
    cases l <;> exact hempty
  | _ => exact h

/-- Settles O58: every move keeps the law of the queues, so every step does. -/
theorem stepKeepsNoticeLaw : Obligations.StepKeepsNoticeLaw := fun _ _ hs h =>
  step_keeps (P := NoticeLaw) (fun _ _ h => h) (fun _ _ m => move_keeps_noticeLaw m) hs h

/-! ### NOTICES and ACK (R164, R165) -/

/-- R175: Link S in FORMATTING with no held request. -/
def FormattingUnheld (s : State) (l : Link) : Prop :=
  s.mount.mode = .formatting ∧ l = .s ∧ (s.link l).held = none

theorem noticesRefusal_formatting (h : FormattingUnheld s l) : noticesRefusal s l = some .notReady := by
  unfold noticesRefusal
  rw [if_neg (by rw [h.1]; decide)]
  exact if_pos h

theorem noticesRefusal_none (hm : s.mount.mode ≠ .halted) (h : ¬ FormattingUnheld s l) : noticesRefusal s l = none := by
  unfold noticesRefusal
  rw [if_neg hm]
  exact if_neg h

theorem formattingUnheld_atOwner : FormattingUnheld (atOwner s l) l ↔ FormattingUnheld s l := by
  simp [FormattingUnheld, hunting]

/-- R164. -/
theorem requestNotices_answers (h : noticesRefusal s l = none) : requestNotices l sq s =
    (s.answer l sq .notices .ok
      (BitVec.ofNat 8 (s.noticeQueue l).entries.length :: (s.noticeQueue l).entries.flatMap noticeItem)).setNotices l
      ((s.noticeQueue l).entries.map fun x => { x with seen := true }) := by
  unfold requestNotices
  rw [h]
  exact setNotices_answer ..

/-- R165: a count within the queue's length. -/
theorem requestAck_removes (h : noticesRefusal s l = none) (hn : n.toNat ≤ (s.noticeQueue l).entries.length) : requestAck l sq n s =
    (s.answer l sq .ack .ok
      [n, BitVec.ofNat 8 (((s.noticeQueue l).entries.take n.toNat).filter fun x => !x.seen).length,
        BitVec.ofNat 8 ((s.noticeQueue l).entries.length - n.toNat)]).setNotices l ((s.noticeQueue l).entries.drop n.toNat) := by
  unfold requestAck
  rw [h]
  dsimp only
  rw [if_neg (Nat.not_lt.2 hn)]
  exact setNotices_answer ..

/-- R165: a count above it. -/
theorem requestAck_beyond (h : noticesRefusal s l = none) (hn : (s.noticeQueue l).entries.length < n.toNat) : requestAck l sq n s =
    s.answer l sq .ack .badValue [0, 0, BitVec.ofNat 8 (s.noticeQueue l).entries.length] := by
  unfold requestAck
  rw [h]
  exact if_pos hn

theorem exec_notices (h : Passes s l sq) : exec (.notices l sq) s = .next (requestNotices l sq (atOwner s l)) :=
  congrArg _ (takeRequest_passes h .notices (.inl rfl) _)

theorem exec_ack (h : Passes s l sq) : exec (.ack l sq n) s = .next (requestAck l sq n (atOwner s l)) :=
  congrArg _ (takeRequest_passes h .ack (.inl rfl) _)

/-- Settles O4: Link S in FORMATTING with nothing held, NOTICES otherwise, and ACK by its count. -/
theorem noticesAndAck : Obligations.NoticesAndAck := by
  intro l sq n s hpass hmode q after notReady
  rw [exec_notices hpass, exec_ack hpass]
  have hanswers : ¬ notReady → noticesRefusal (atOwner s l) l = none := fun h =>
    noticesRefusal_none hmode (mt formattingUnheld_atOwner.1 h)
  refine ⟨fun h => ?_, fun h => ?_, fun h hn => ?_, fun h hn => ?_⟩
  · obtain ⟨hnotices, hack⟩ := notices_refused (sq := sq) (n := n) (noticesRefusal_formatting (formattingUnheld_atOwner.2 h))
    rw [hnotices, hack]
    exact ⟨congrArg _ (refuse_atOwner .notices .notReady), congrArg _ (refuse_atOwner .ack .notReady)⟩
  · rw [requestNotices_answers (hanswers h), answer_atOwner]
    rfl
  · rw [requestAck_removes (hanswers h) hn, answer_atOwner]
    rfl
  · rw [requestAck_beyond (hanswers h) hn, answer_atOwner]
    rfl

/-! ### How a notice is taken (R161, R162) -/

theorem raiseRepeat_eq_min (k : Nat) : raiseRepeat k = min 255 (k + 1) := by
  unfold raiseRepeat
  split <;> omega

theorem sameAs_iff {x : Notice} (hk : kind ≠ .lost) : x.sameAs kind subject = true ↔ x.kind = kind ∧ x.subject = subject := by
  simp only [Notice.sameAs, Bool.and_eq_true, beq_iff_eq, bne_iff_ne]
  exact ⟨fun h => h.1, fun h => ⟨h, by rw [h.1]; exact hk⟩⟩

/-- R161, first way: the entry of the kind and subject takes the detail. -/
theorem takeNotice_same (hk : kind ≠ .lost) (h : ∃ x ∈ q, x.kind = kind ∧ x.subject = subject) :
    takeNotice q kind subject detail = q.map fun x =>
      if x.kind = kind ∧ x.subject = subject then { x with detail := detail, repeats := min 255 (x.repeats + 1), seen := false }
      else x := by
  have hany : q.any (fun x => x.sameAs kind subject) = true := by simpa only [List.any_eq_true, sameAs_iff hk] using h
  unfold takeNotice
  rw [if_pos hany]
  simp only [sameAs_iff hk, raiseRepeat_eq_min]

theorem not_any_sameAs (hk : kind ≠ .lost) (h : ¬ ∃ x ∈ q, x.kind = kind ∧ x.subject = subject) :
    ¬ q.any (fun x => x.sameAs kind subject) = true := by
  simpa only [List.any_eq_true, sameAs_iff hk] using h

/-- Second way: the LOST entry names the notice. -/
theorem takeNotice_lost (hk : kind ≠ .lost) (hsame : ¬ ∃ x ∈ q, x.kind = kind ∧ x.subject = subject)
    (h : ∃ x ∈ q, x.kind = .lost) :
    takeNotice q kind subject detail = q.map fun x =>
      if x.kind = .lost then
        { x with detail := lostDetail kind subject, repeats := min 255 (x.repeats + 1), seen := false }
      else x := by
  unfold takeNotice
  rw [if_neg (not_any_sameAs hk hsame), if_pos (by simpa using h)]
  simp only [beq_iff_eq, raiseRepeat_eq_min]

/-- Third and fourth way: an entry joins at the end, the notice itself or a LOST entry that names it. -/
theorem takeNotice_joins (hk : kind ≠ .lost) (hsame : ¬ ∃ x ∈ q, x.kind = kind ∧ x.subject = subject)
    (hlost : ¬ ∃ x ∈ q, x.kind = .lost) :
    takeNotice q kind subject detail =
      if q.length < 7 then q ++ [{ kind := kind, subject := subject, detail := detail, repeats := 1, seen := false }]
      else q ++ [{ kind := .lost, subject := 0, detail := lostDetail kind subject, repeats := 1, seen := false }] := by
  unfold takeNotice
  rw [if_neg (not_any_sameAs hk hsame), if_neg (by simpa using hlost)]

/-- R166: a queue that has taken a notice is not empty. -/
theorem takeNotice_ne_nil (q : List Notice) (kind : NoticeKind) (subject : Half) (detail : Word) :
    takeNotice q kind subject detail ≠ [] := by
  have hmap : ∀ {p : Notice → Bool} (f : Notice → Notice), q.any p = true → q.map f ≠ [] := fun f h hnil => by
    rw [List.map_eq_nil_iff.1 hnil] at h
    cases h
  unfold takeNotice
  split
  · exact hmap _ ‹_›
  · split
    · exact hmap _ ‹_›
    · split <;> simp

theorem offerNotice_eq (s : State) (l : Link) (kind : NoticeKind) (subject : Half) (detail : Word) :
    s.offerNotice l kind subject detail =
      { s with notices := s.notices.set l
                { entries := takeNotice (s.noticeQueue l).entries kind subject detail, attn := true } } := by
  unfold State.offerNotice State.setNotices
  rw [List.isEmpty_eq_false_iff.2 (takeNotice_ne_nil _ _ _ _)]
  rfl

/-- Settles O5: the four ways, each under what the ways before it leave. -/
theorem noticeTakenInOneOfFourWays : Obligations.NoticeTakenInOneOfFourWays := by
  intro s l kind subject detail hk q same counted after
  suffices htaken : takeNotice q kind subject detail = after by rw [offerNotice_eq, htaken]
  by_cases hsame : ∃ x ∈ q, same x
  · rw [takeNotice_same hk hsame]
    exact (if_pos hsame).symm
  by_cases hlost : ∃ x ∈ q, x.kind = .lost
  · rw [takeNotice_lost hk hsame hlost]
    exact ((if_neg hsame).trans (if_pos hlost)).symm
  · rw [takeNotice_joins hk hsame hlost]
    exact ((if_neg hsame).trans (if_neg hlost)).symm

end Sys2Proof.Proofs
end

section
/-!
PROOFS. The bodies of requests, written and read back (R182), and the codes of their kinds (R179).
-/

namespace Sys2Proof.Proofs

open Sys2Proof.Machine Sys2Proof.Safety Sys2Proof.Laws

variable {key : Key} {code : Byte} {bytes body : List Byte} {r : Request}

/-! ### Fields of two and four bytes -/

theorem toHalf_be16 (h : Half) : toHalf (h.extractLsb' 8 8) (h.extractLsb' 0 8) = h :=
  BitVec.extractLsb'_append_extractLsb' (w := 8) (len := 8)

/-- The bytes of a word join from the left, each beside the one below it. -/
theorem toWord_be32 (w : Word) :
    toWord (w.extractLsb' 24 8) (w.extractLsb' 16 8) (w.extractLsb' 8 8) (w.extractLsb' 0 8) = w := by
  unfold toWord
  rw [BitVec.extractLsb'_append_extractLsb'_eq_extractLsb' (rfl : 24 = 16 + 8),
    BitVec.extractLsb'_append_extractLsb'_eq_extractLsb' (rfl : 16 = 8 + 8),
    BitVec.extractLsb'_append_extractLsb'_eq_extractLsb' (rfl : 8 = 0 + 8)]
  exact BitVec.extractLsb'_eq_self

/-! ### Layouts with optional or variable fields -/

theorem parsePut_expectedBytes (key : Key) (cls : Byte) (expected : Option Word) (hfits : body.length ≤ 224) :
    parsePut (be16 key ++ [cls] ++ expectedBytes expected ++ body) = some (.put key cls expected body) := by
  cases expected with
  | none =>
    show (if body.length ≤ 224 then some (Request.put (toHalf _ _) cls none body) else none) = _
    rw [if_pos hfits, toHalf_be16]
  | some g =>
    show (if body.length ≤ 224 then some (Request.put (toHalf _ _) cls (some (toWord _ _ _ _)) body) else none) = _
    rw [if_pos hfits, toHalf_be16, toWord_be32]

theorem parseAppend_bytes (key : Key) (hfits : bytes.length ≤ 224) : parseAppend (be16 key ++ bytes) = some (.append key bytes) := by
  show (if bytes.length ≤ 224 then some (Request.append (toHalf _ _) bytes) else none) = _
  rw [if_pos hfits, toHalf_be16]

theorem parseDelete_expectedBytes (key : Key) (expected : Option Word) :
    parseDelete (be16 key ++ expectedBytes expected) = some (.delete key expected) := by
  cases expected with
  | none => exact congrArg (fun k => some (Request.delete k none)) (toHalf_be16 key)
  | some g =>
    show some (Request.delete (toHalf _ _) (some (toWord _ _ _ _))) = _
    rw [toHalf_be16, toWord_be32]

theorem parseKey_be16 (build : Key → Request) (key : Key) : parseKey build (be16 key) = some (build key) :=
  congrArg (fun k => some (build k)) (toHalf_be16 key)

/-! ### All requests and all kinds -/

/-- R182: a body is read back by the reader of its kind. -/
theorem parseBody_bodyOf (hfits : requestFits r = true) : parseBody (kindOf r) (bodyOf r) = some r := by
  cases r with
  | put key cls expected body => exact parsePut_expectedBytes key cls expected (of_decide_eq_true hfits)
  | append key bytes => exact parseAppend_bytes key (of_decide_eq_true hfits)
  | delete key expected => exact parseDelete_expectedBytes key expected
  | read key offset maximum =>
    show some (Request.read (toHalf _ _) (toHalf _ _) maximum) = _
    rw [toHalf_be16, toHalf_be16]
  | list start count => exact congrArg (fun k => some (Request.list k count)) (toHalf_be16 start)
  | add key delta =>
    show some (Request.add (toHalf _ _) (toWord _ _ _ _)) = _
    rw [toHalf_be16, toWord_be32]
  | drop key => exact parseKey_be16 .drop key
  | watch key => exact parseKey_be16 .watch key
  | unwatch key => exact parseKey_be16 .unwatch key
  | _ => rfl

theorem expectedBytes_length_le (expected : Option Word) : (expectedBytes expected).length ≤ 5 := by
  cases expected <;> simp [expectedBytes, be32]

/-- R171, R182: the longest body is that of a PUT with an expected generation, 8 bytes and its part. -/
theorem bodyOf_length_le (hfits : requestFits r = true) : (bodyOf r).length ≤ 240 := by
  cases r with
  | put key cls expected body =>
    have hpart : body.length ≤ 224 := of_decide_eq_true hfits
    have hexpected := expectedBytes_length_le expected
    simp only [bodyOf, be16, List.length_append, List.length_cons, List.length_nil]
    omega
  | append key bytes =>
    have hpart : bytes.length ≤ 224 := of_decide_eq_true hfits
    simp only [bodyOf, be16, List.length_append, List.length_cons, List.length_nil]
    omega
  | delete key expected =>
    have hexpected := expectedBytes_length_le expected
    simp only [bodyOf, be16, List.length_append, List.length_cons, List.length_nil]
    omega
  | _ => exact of_decide_eq_true rfl

theorem reqKind_ofCode_code (k : ReqKind) : ReqKind.ofCode k.code = some k := by
  cases k <;> rfl

theorem reqKind_ofCode_none (h : ∀ k : ReqKind, k.code ≠ code) : ReqKind.ofCode code = none :=
  List.find?_eq_none.2 fun k _ => by simpa using h k

/-- Settles O44: the layouts one by one, and the codes. -/
theorem requestBodiesRoundTrip : Obligations.RequestBodiesRoundTrip :=
  ⟨fun _ => parseBody_bodyOf, reqKind_ofCode_code⟩

end Sys2Proof.Proofs
end

section
/-!
PROOFS. Completed frames by the steps of R175: dropped, repeated, answered by the link itself, or dealt with as the request's own row; and
the events inside a frame (R170 to R173).
-/

namespace Sys2Proof.Proofs

open Sys2Proof.Machine Sys2Proof.Safety Sys2Proof.Laws

variable {s : State} {l : Link} {sq kind b : Byte} {body : List Byte} {check : Half} {f : Frame} {r : Request} {x : ReqKind}
  {g : FramerState} {p : FrameInProgress}

/-! ### The framer back in HUNT, and what is placed or counted then -/

theorem huntLink_eq (s : State) (l : Link) : s.huntLink l = s.setLink l (hunting (s.link l)) := rfl

theorem huntLink_link : (s.huntLink l).link l = hunting (s.link l) := by
  rw [huntLink_eq, State.setLink_link_self]

theorem raiseCheck_huntLink : (s.huntLink l).raiseCheck l =
    s.setLink l { hunting (s.link l) with checkCount := riseToMax (s.link l).checkCount } := by
  rw [State.raiseCheck, huntLink_link, huntLink_eq, State.setLink_setLink]
  rfl

theorem raiseOverrun_huntLink : (s.huntLink l).raiseOverrun l =
    s.setLink l { hunting (s.link l) with overrunCount := riseToMax (s.link l).overrunCount } := by
  rw [State.raiseOverrun, huntLink_link, huntLink_eq, State.setLink_setLink]
  rfl

theorem raiseGap_huntLink : (s.huntLink l).raiseGap l =
    s.setLink l { hunting (s.link l) with gapCount := riseToMax (s.link l).gapCount } := by
  rw [State.raiseGap, huntLink_link, huntLink_eq, State.setLink_setLink]
  rfl

theorem placeFrame_huntLink : (s.huntLink l).placeFrame l f = s.setLink l (withReply (s.link l) f) := by
  rw [State.placeFrame, huntLink_link, huntLink_eq]
  exact State.setLink_setLink ..

/-- A reply that the link gives itself leaves the row as it was. -/
theorem placeFrame_huntLink_replied : (s.huntLink l).placeFrame l f = replied s l (s.row l) f := by
  rw [placeFrame_huntLink, replied, State.setRow_row_same]

/-- R178, R179: every request kind is below 80H. -/
theorem replyKind_code (x : ReqKind) : replyKind x.code = x.code + 0x80 := by
  cases x <;> rfl

theorem replyKind_eq_ite (kind : Byte) : replyKind kind = if 0x80 ≤ kind.toNat then 0xFF else kind + 0x80 := by
  unfold replyKind
  rw [BitVec.msb_eq_decide, Bool.cond_decide]

theorem refuse_huntLink (code : Result) : (s.huntLink l).refuse l sq x code =
    replied s l (s.row l) (frame sq (x.code + 0x80) (code.code :: List.replicate x.fixedPart 0)) := by
  rw [← replyKind_code]
  exact placeFrame_huntLink_replied

/-! ### R175, steps 1 to 3 -/

theorem earlySteps_full (rest : State → State) (h : 4 ≤ (s.link l).repliesTaken) :
    earlySteps l sq rest (s.huntLink l) = s.setLink l { hunting (s.link l) with overrunCount := riseToMax (s.link l).overrunCount } := by
  unfold earlySteps
  rw [huntLink_link]
  exact (if_pos h).trans raiseOverrun_huntLink

/-- What R175, step 1, lets pass. -/
theorem earlySteps_room (rest : State → State) (h : (s.link l).repliesTaken < 4) : earlySteps l sq rest (s.huntLink l) =
    if sq ≠ 0 ∧ (s.link l).held.map Held.sequence = some sq then s.huntLink l
    else
      match (s.link l).cache with
      | some f => if sq ≠ 0 ∧ f.sequence = sq then (s.huntLink l).placeFrame l f else rest (s.huntLink l)
      | none => rest (s.huntLink l) := by
  unfold earlySteps
  rw [huntLink_link]
  exact if_neg (Nat.not_le.2 h)

theorem earlySteps_heldAgain (rest : State → State) (h : (s.link l).repliesTaken < 4) (hsq : sq ≠ 0)
    (hheld : (s.link l).held.map Held.sequence = some sq) :
    earlySteps l sq rest (s.huntLink l) = s.setLink l (hunting (s.link l)) := by
  rw [earlySteps_room rest h, if_pos ⟨hsq, hheld⟩]
  rfl

theorem earlySteps_cachedAgain (rest : State → State) (h : (s.link l).repliesTaken < 4) (hsq : sq ≠ 0)
    (hheld : (s.link l).held.map Held.sequence ≠ some sq) (hcache : (s.link l).cache = some f) (hf : f.sequence = sq) :
    earlySteps l sq rest (s.huntLink l) = s.setLink l (withReply (s.link l) f) := by
  rw [earlySteps_room rest h, if_neg fun hagain => hheld hagain.2, hcache]
  exact (if_pos ⟨hsq, hf⟩).trans placeFrame_huntLink

/-! ### R175, steps 4 to 6, for a frame -/

theorem frameSteps_unknown (h : ∀ x : ReqKind, x.code ≠ kind) : frameSteps l sq kind body (s.huntLink l) =
    replied s l (s.row l) (frame sq (if 0x80 ≤ kind.toNat then 0xFF else kind + 0x80) [0x20]) := by
  unfold frameSteps
  rw [reqKind_ofCode_none h, ← replyKind_eq_ite]
  exact placeFrame_huntLink_replied

theorem frameSteps_badFormat (h : parseBody x body = none) (t : State) :
    frameSteps l sq x.code body t = t.refuse l sq x .badFormat := by
  unfold frameSteps
  rw [reqKind_ofCode_code]
  dsimp only
  rw [h]

theorem frameSteps_parsed (h : parseBody x body = some r) :
    frameSteps l sq x.code body = lateSteps l sq x true (ownerOf l sq r) := by
  funext t
  unfold frameSteps
  rw [reqKind_ofCode_code]
  dsimp only
  rw [h]

/-- R177: of the requests beside a held one the link lets these pass. -/
theorem passesHeld_false (hstatus : x ≠ .status) (hnotices : x ≠ .notices) (hack : x ≠ .ack) : x.passesHeld = false := by
  cases x with
  | status => exact absurd rfl hstatus
  | notices => exact absurd rfl hnotices
  | ack => exact absurd rfl hack
  | _ => rfl

theorem lateSteps_busy (owner : State → State) (hheld : (s.link l).held ≠ none) (hpasses : x.passesHeld = false) :
    lateSteps l sq x true owner (s.huntLink l) = (s.huntLink l).refuse l sq x .busy := by
  have hsome : (s.link l).held.isSome = true := Option.isSome_iff_ne_none.2 hheld
  have hbusy : (((s.huntLink l).link l).held.isSome && !x.passesHeld) = true := by
    rw [huntLink_link, hpasses]
    exact Bool.and_eq_true_iff.2 ⟨hsome, rfl⟩
  exact if_pos hbusy

/-! ### The completed frame -/

theorem frameEnds_bad (h : check ≠ (frame sq kind body).check) : frameEnds l sq kind body check s =
    s.setLink l { hunting (s.link l) with checkCount := riseToMax (s.link l).checkCount } :=
  (if_neg h.symm).trans raiseCheck_huntLink

theorem frameEnds_good (h : check = (frame sq kind body).check) :
    frameEnds l sq kind body check s = earlySteps l sq (frameSteps l sq kind body) (s.huntLink l) :=
  if_pos h.symm

/-- A completed frame forgets what the framer held. -/
theorem frameEnds_congr {t : State} (h : s.huntLink l = t.huntLink l) :
    frameEnds l sq kind body check s = frameEnds l sq kind body check t := by
  unfold frameEnds dealFrame
  rw [h]

theorem exec_frameComplete (ht : s.linkTakes l = true) (hlen : body.length ≤ 240) :
    exec (.frameComplete l sq kind body check) s = .next (frameEnds l sq kind body check s) := by
  show Host.Outcome.next (frameArrives l sq kind body check s) = _
  unfold frameArrives
  rw [ht]
  exact congrArg _ (if_neg (Nat.not_lt.2 hlen))

theorem exec_frameComplete_passes (hp : Passes s l sq) (hlen : body.length ≤ 240) (hgood : check = (frame sq kind body).check) :
    exec (.frameComplete l sq kind body check) s = .next (frameSteps l sq kind body (s.huntLink l)) := by
  rw [exec_frameComplete hp.1 hlen, frameEnds_good hgood, earlySteps_passes hp]

/-- R175: a good frame with a request in it takes the steps of the request's own row (log 1). -/
theorem frameArrives_request (hfits : requestFits r = true) :
    frameArrives l sq (kindOf r).code (bodyOf r) (frame sq (kindOf r).code (bodyOf r)).check s =
      takeRequest l sq (kindOf r) (requestFits r) (ownerOf l sq r) s := by
  unfold frameArrives takeRequest
  cases s.linkTakes l with
  | false => rfl
  | true =>
    rw [hfits, ← frameSteps_parsed (parseBody_bodyOf hfits)]
    exact (if_neg (Nat.not_lt.2 (bodyOf_length_le hfits))).trans (frameEnds_good rfl)

/-! ### The events inside a frame (R170 to R173) -/

theorem exec_charError (ht : s.linkTakes l = true) : exec (.byteReceived l b true) s = .next (charFails l s) := by
  show Host.Outcome.next (byteArrives l b true s) = _
  unfold byteArrives
  rw [ht]
  rfl

/-- R172, R173: what drops a frame in progress. -/
theorem frame_dropped (ht : s.linkTakes l = true) (hf : (s.link l).framer ≠ .hunt) (b : Byte) :
    exec (.byteReceived l b true) s =
        .next (s.setLink l { hunting (s.link l) with checkCount := riseToMax (s.link l).checkCount }) ∧
      exec (.gapTimeout l) s = .next (s.setLink l { hunting (s.link l) with gapCount := riseToMax (s.link l).gapCount }) := by
  rw [exec_charError ht]
  exact ⟨congrArg _ ((if_neg hf).trans raiseCheck_huntLink), congrArg _ ((if_pos ⟨ht, hf⟩).trans raiseGap_huntLink)⟩

/-- In HUNT there is none to drop (log 3). -/
theorem hunt_unmoved (ht : s.linkTakes l = true) (hf : (s.link l).framer = .hunt) (b : Byte) :
    exec (.byteReceived l b true) s = .next s ∧ exec (.gapTimeout l) s = .next s := by
  rw [exec_charError ht]
  exact ⟨congrArg _ (if_pos hf), congrArg _ (if_neg fun h => h.2 hf)⟩

/-! ### One byte -/

/-- The link after a byte that the framer has taken: this much of a frame received, the gap timer at 0. -/
def midFrame (s : State) (l : Link) (g : FramerState) (p : FrameInProgress) : State :=
  s.setLink l { s.link l with framer := g, frame := p, gapTimer := 0 }

theorem midFrame_link : (midFrame s l g p).link l = { s.link l with framer := g, frame := p, gapTimer := 0 } :=
  State.setLink_link_self ..

theorem midFrame_takes (ht : s.linkTakes l = true) : (midFrame s l g p).linkTakes l = true := by
  unfold State.linkTakes
  rw [midFrame_link]
  exact ht

theorem midFrame_huntLink : (midFrame s l g p).huntLink l = midFrame s l .hunt .start := by
  rw [huntLink_eq, midFrame_link]
  exact State.setLink_setLink ..

theorem midFrame_frameTo (g' : FramerState) (p' : FrameInProgress) : (midFrame s l g p).frameTo l g' p' = midFrame s l g' p' := by
  unfold State.frameTo
  rw [midFrame_link]
  exact State.setLink_setLink ..

theorem midFrame_midFrame (g' : FramerState) (p' : FrameInProgress) : midFrame (midFrame s l g p) l g' p' = midFrame s l g' p' := by
  unfold midFrame
  rw [State.setLink_link_self, State.setLink_setLink]

theorem midFrame_hunt (hf : (s.link l).framer = .hunt) :
    midFrame s l .hunt (s.link l).frame = s.setLink l { s.link l with gapTimer := 0 } := by
  unfold midFrame
  rw [← hf]

/-- R172: the framer takes a byte with the gap timer at 0. -/
theorem exec_byte (ht : s.linkTakes l = true) :
    exec (.byteReceived l b false) s = .next (takeByte l b (midFrame s l (s.link l).framer (s.link l).frame)) := by
  show Host.Outcome.next (byteArrives l b false s) = _
  unfold byteArrives
  rw [ht]
  rfl

theorem exec_byte_midFrame (ht : s.linkTakes l = true) :
    exec (.byteReceived l b false) (midFrame s l g p) = .next (takeByte l b (midFrame s l g p)) := by
  rw [exec_byte (midFrame_takes ht), midFrame_midFrame, midFrame_link]

theorem takeByte_hunt : takeByte l b (midFrame s l .hunt p) =
    if b = 0xC3 then midFrame s l .length .start else midFrame s l .hunt p := by
  simp only [takeByte, midFrame_link, midFrame_frameTo]

theorem takeByte_length : takeByte l b (midFrame s l .length p) =
    if b.toNat ≤ 240 then midFrame s l .sequence { p with length := b } else midFrame s l .hunt .start := by
  simp only [takeByte, midFrame_link, midFrame_frameTo, midFrame_huntLink, Config.maxFrameBody]

theorem takeByte_sequence : takeByte l b (midFrame s l .sequence p) = midFrame s l .kind { p with sequence := b } := by
  simp only [takeByte, midFrame_link, midFrame_frameTo]

theorem takeByte_kind : takeByte l b (midFrame s l .kind p) =
    midFrame s l (if p.length = 0 then .check else .body) { p with kind := b } := by
  simp only [takeByte, midFrame_link, midFrame_frameTo]

theorem takeByte_body : takeByte l b (midFrame s l .body p) =
    midFrame s l (if p.length.toNat ≤ (p.body ++ [b]).length then .check else .body) { p with body := p.body ++ [b] } := by
  simp only [takeByte, midFrame_link, midFrame_frameTo]

theorem takeByte_checkHigh (hp : p.checkHigh = none) :
    takeByte l b (midFrame s l .check p) = midFrame s l .check { p with checkHigh := some b } := by
  simp only [takeByte, midFrame_link, midFrame_frameTo, hp]

theorem takeByte_checkLow {hi : Byte} (hp : p.checkHigh = some hi) : takeByte l b (midFrame s l .check p) =
    frameEnds l p.sequence p.kind p.body (toHalf hi b) (midFrame s l .check p) := by
  simp only [takeByte, midFrame_link, hp]

/-- R170: what is not a start byte starts no frame. -/
theorem exec_byte_noStart (ht : s.linkTakes l = true) (hf : (s.link l).framer = .hunt) (hb : b ≠ 0xC3) :
    exec (.byteReceived l b false) s = .next (s.setLink l { s.link l with gapTimer := 0 }) := by
  rw [exec_byte ht, hf, takeByte_hunt, if_neg hb, midFrame_hunt hf]

/-- R171. -/
theorem exec_byte_tooLong (ht : s.linkTakes l = true) (hf : (s.link l).framer = .length) (hb : 240 < b.toNat) :
    exec (.byteReceived l b false) s = .next (s.setLink l { hunting (s.link l) with gapTimer := 0 }) := by
  rw [exec_byte ht, hf, takeByte_length, if_neg (Nat.not_le.2 hb)]
  rfl

/-- Settles O45: the frame by its check and the steps of R175, and the bytes and the gap by the framer's state. -/
theorem linkStepsInOrder : Obligations.LinkStepsInOrder := by
  intro l sq kind body check s ht hlen k up good frameIn
  have hframe : frameIn = .next (frameEnds l sq kind body check s) := exec_frameComplete ht hlen
  have hearly (h : good) : frameIn = .next (earlySteps l sq (frameSteps l sq kind body) (s.huntLink l)) := by
    rw [hframe, frameEnds_good h]
  refine ⟨fun h => hframe.trans (congrArg _ (frameEnds_bad h)), fun h hfull => (hearly h).trans (congrArg _ (earlySteps_full _ hfull)),
    fun h hroom hsq hheld => (hearly h).trans (congrArg _ (earlySteps_heldAgain _ hroom hsq hheld)),
    fun f h hroom hsq hheld hcache hf => (hearly h).trans (congrArg _ (earlySteps_cachedAgain _ hroom hsq hheld hcache hf)),
    fun b hf => frame_dropped ht hf b, fun b hf => hunt_unmoved ht hf b, fun b => exec_byte_noStart ht, fun b => exec_byte_tooLong ht,
    ?_⟩
  intro h hp answered
  have hsteps : frameIn = .next (frameSteps l sq kind body (s.huntLink l)) := exec_frameComplete_passes hp hlen h
  refine ⟨fun hkind => hsteps.trans (congrArg _ (frameSteps_unknown hkind)), ?_, ?_⟩
  · rintro x rfl hbody
    exact hsteps.trans (congrArg _ ((frameSteps_badFormat hbody _).trans (refuse_huntLink .badFormat)))
  · rintro x rfl hbody hheld hstatus hnotices hack
    obtain ⟨r, hr⟩ := Option.ne_none_iff_exists'.1 hbody
    refine hsteps.trans (congrArg _ ?_)
    rw [frameSteps_parsed hr, lateSteps_busy _ hheld (passesHeld_false hstatus hnotices hack)]
    exact refuse_huntLink .busy

end Sys2Proof.Proofs
end

section
/-!
PROOFS. A frame received byte by byte (R170, R181): the framer after each part of it, and the completed frame.
-/

namespace Sys2Proof.Proofs

open Sys2Proof.Machine Sys2Proof.Safety Sys2Proof.Laws

variable {s : State} {l : Link} {sq kind b : Byte} {body : List Byte} {check : Half} {p : FrameInProgress} {g : FramerState}

theorem runAll_cons {c : Instr} {t : State} (cs : List Instr) (h : exec c s = .next t) : runAll (c :: cs) s = runAll cs t := by
  simp only [runAll, h]

/-- A byte inside a frame, by what the framer makes of it. -/
theorem runAll_byte {t : State} (ht : s.linkTakes l = true) (h : takeByte l b (midFrame s l g p) = t) (cs : List Instr) :
    runAll (.byteReceived l b false :: cs) (midFrame s l g p) = runAll cs t :=
  runAll_cons cs ((exec_byte_midFrame ht).trans (congrArg _ h))

/-! ### The parts of a frame -/

/-- The framer while `rest` of the body is still to come. -/
def bodyFramer (rest : List Byte) : FramerState :=
  if rest = [] then .check else .body

theorem bodyFramer_eq {c : Prop} [Decidable c] {rest : List Byte} (h : c ↔ rest.length = 0) :
    (if c then FramerState.check else .body) = bodyFramer rest :=
  ite_congr (propext (h.trans List.length_eq_zero_iff)) (fun _ => rfl) fun _ => rfl

/-- The body's bytes, one after another, in a frame whose length byte counts them. -/
theorem runAll_body (ht : s.linkTakes l = true) (cs : List Instr) (rest : List Byte) :
    ∀ p : FrameInProgress, p.length.toNat = p.body.length + rest.length →
      runAll ((rest.map fun b => .byteReceived l b false) ++ cs) (midFrame s l (bodyFramer rest) p) =
        runAll cs (midFrame s l .check { p with body := p.body ++ rest }) := by
  induction rest with
  | nil =>
    intro p _
    rw [List.append_nil]
    rfl
  | cons b rest ih =>
    intro p hp
    rw [List.length_cons] at hp
    have hcount : (p.body ++ [b]).length = p.body.length + 1 := List.length_append
    have hnext : takeByte l b (midFrame s l .body p) = midFrame s l (bodyFramer rest) { p with body := p.body ++ [b] } := by
      rw [takeByte_body, bodyFramer_eq (rest := rest) (by omega)]
    calc runAll (((b :: rest).map fun b => .byteReceived l b false) ++ cs) (midFrame s l .body p)
        = runAll ((rest.map fun b => .byteReceived l b false) ++ cs) (midFrame s l (bodyFramer rest) { p with body := p.body ++ [b] }) :=
          runAll_byte ht hnext _
      _ = runAll cs (midFrame s l .check { p with body := p.body ++ [b] ++ rest }) := ih _ (by dsimp only; omega)
      _ = runAll cs (midFrame s l .check { p with body := p.body ++ b :: rest }) := by rw [List.append_assoc, List.singleton_append]

/-- The two check bytes complete the frame; the framer is back in HUNT before it is dealt with. -/
theorem runAll_check (ht : s.linkTakes l = true) (hp : p.checkHigh = none) :
    runAll ((be16 check).map fun b => .byteReceived l b false) (midFrame s l .check p) =
      some (frameEnds l p.sequence p.kind p.body check (midFrame s l .hunt .start)) := by
  have hends : takeByte l (check.extractLsb' 0 8) (midFrame s l .check { p with checkHigh := some (check.extractLsb' 8 8) }) =
      frameEnds l p.sequence p.kind p.body check (midFrame s l .hunt .start) := by
    rw [takeByte_checkLow rfl, toHalf_be16]
    exact frameEnds_congr (midFrame_huntLink.trans midFrame_huntLink.symm)
  exact (runAll_byte ht (takeByte_checkHigh hp) _).trans (runAll_byte ht hends [])

/-- The bytes before the body: start byte, length, sequence, kind. -/
theorem runAll_head (ht : s.linkTakes l = true) (hf : (s.link l).framer = .hunt) (hlen : body.length ≤ 240) (cs : List Instr) :
    runAll (([0xC3, BitVec.ofNat 8 body.length, sq, kind].map fun b => .byteReceived l b false) ++ cs) s =
      runAll cs (midFrame s l (bodyFramer body)
        { FrameInProgress.start with length := BitVec.ofNat 8 body.length, sequence := sq, kind := kind }) := by
  have hcount : (BitVec.ofNat 8 body.length).toNat = body.length := by
    rw [BitVec.toNat_ofNat]
    omega
  have hstart : exec (.byteReceived l 0xC3 false) s = .next (midFrame s l .length .start) := by
    rw [exec_byte ht, hf, takeByte_hunt, if_pos rfl]
  have hlength : takeByte l (BitVec.ofNat 8 body.length) (midFrame s l .length .start) =
      midFrame s l .sequence { FrameInProgress.start with length := BitVec.ofNat 8 body.length } := by
    rw [takeByte_length, if_pos (by rw [hcount]; exact hlen)]
  have hempty : BitVec.ofNat 8 body.length = 0 ↔ body.length = 0 := by
    rw [← BitVec.toNat_inj, hcount]
    rfl
  have hkind : takeByte l kind (midFrame s l .kind { FrameInProgress.start with length := BitVec.ofNat 8 body.length, sequence := sq }) =
      midFrame s l (bodyFramer body)
        { FrameInProgress.start with length := BitVec.ofNat 8 body.length, sequence := sq, kind := kind } := by
    rw [takeByte_kind, bodyFramer_eq hempty]
  exact (runAll_cons _ hstart).trans ((runAll_byte ht hlength _).trans ((runAll_byte ht takeByte_sequence _).trans
    (runAll_byte ht hkind cs)))

/-- R170: the bytes of a frame, received from HUNT without error, do what its completion does with the gap timer at 0. -/
theorem runAll_frame (ht : s.linkTakes l = true) (hf : (s.link l).framer = .hunt) (hlen : body.length ≤ 240) :
    runAll (([(0xC3 : Byte), BitVec.ofNat 8 body.length, sq, kind] ++ body ++ be16 check).map fun b => .byteReceived l b false) s =
      some (frameEnds l sq kind body check (midFrame s l .hunt .start)) := by
  rw [List.append_assoc, List.map_append, runAll_head ht hf hlen, List.map_append, runAll_body ht, runAll_check ht rfl]
  · rfl
  · show (BitVec.ofNat 8 body.length).toNat = 0 + body.length
    rw [BitVec.toNat_ofNat]
    omega

/-- Settles O42: a request's row and its frame, a frame and its bytes, the bytes of a reply. -/
theorem framesAndBytes : Obligations.FramesAndBytes := by
  refine ⟨?_, ?_, fun _ _ _ => rfl⟩
  · intro l sq r s hfits row
    have hrow : exec row s = .next (takeRequest l sq (kindOf r) (requestFits r) (ownerOf l sq r) s) := by cases r <;> rfl
    exact ⟨_, hrow, congrArg _ (frameArrives_request hfits)⟩
  · intro l sq kind body check s ht hf hlen bytes
    refine ⟨_, runAll_frame ht hf hlen, ?_⟩
    rw [← midFrame_hunt hf, exec_frameComplete (midFrame_takes ht) hlen]
    exact congrArg _ (frameEnds_congr (midFrame_huntLink.trans midFrame_huntLink.symm))

end Sys2Proof.Proofs
end

section
/-!
PROOFS. STATUS (R180): the 39 bytes of its reply (10.4.1).
-/

namespace Sys2Proof.Proofs

open Sys2Proof.Machine Sys2Proof.Safety Sys2Proof.Laws

variable {s : State} {l : Link} {sq : Byte}

theorem exec_status (h : Passes s l sq) : exec (.status l sq) s = .next (requestStatus l sq (atOwner s l)) :=
  congrArg _ (takeRequest_passes h .status (.inl rfl) _)

/-- Offsets 7 to 11: the session of a row that holds one (R49). -/
theorem sessionFields_eq (r : SessionRow) : sessionFields r =
    if r.state ≠ .none ∧ r.orphaned = false then
      [r.state.code] ++ be16 (r.number.getD 0) ++
        [(r.privilege.map Privilege.code).getD 0, BitVec.ofNat 8 ((r.leaseRemaining.getD 0 + 999) / 1000)]
    else [0, 0, 0, 0, 0] :=
  ite_congr (propext holdsSession_iff) (fun _ => rfl) fun _ => rfl

theorem heldCode_eq (h : Option Held) : heldCode h = (h.map fun h => h.kind.code).getD 0 := by
  cases h <;> rfl

/-- What STATUS reports of the state that its owner is given: of all items only the session's can differ from those at the link. -/
theorem statusFields_atOwner : statusFields (atOwner s l) l =
    be16 0x4F40 ++ [0x01, s.mount.mode.code, s.mount.cause.code, s.mount.flags.byte] ++
      sessionFields (freshLease (s.row l)) ++ [heldCode (s.link l).held] ++
      be16 (BitVec.ofNat 16 (Directory.liveCount s.directory)) ++ be16 (BitVec.ofNat 16 (Directory.deletedCount s.directory)) ++
      [BitVec.ofNat 8 s.erasedCount, BitVec.ofNat 8 (s.countState .full), BitVec.ofNat 8 (s.countState .retired),
        BitVec.ofNat 8 s.activeFree] ++
      be16 (BitVec.ofNat 16 s.totalWaste) ++ be32 s.commit.nextTxn ++
      [s.array.tenancy.code, BitVec.ofNat 8 s.poolFreeSlots] ++ be16 (BitVec.ofNat 16 s.poolFreeBytes) ++
      [BitVec.ofNat 8 s.commit.queue.length] ++
      be16 (s.link l).checkCount ++ be16 (s.link l).gapCount ++ be16 (s.link l).overrunCount ++
      [BitVec.ofNat 8 (s.noticeQueue l).entries.length] := by
  unfold statusFields
  rw [atOwner_row_self, atOwner_link_self, poolFreeSlots_atOwner, poolFreeBytes_atOwner]
  rfl

/-- Settles O3: the owner's reply, item by item. -/
theorem statusReports : Obligations.StatusReports := by
  intro l sq s h r
  rw [exec_status h, requestStatus, answer_atOwner, statusFields_atOwner, sessionFields_eq, heldCode_eq]
  simp only [List.append_assoc]
  rfl

end Sys2Proof.Proofs
end

section
/-!
PROOFS. The step on a waiting command (log 32), and that no command stops the part: the commands for the ends of operations ask first what is
in flight (R30, log 3), every other command has one next state at once.
-/

namespace Sys2Proof.Proofs

open Sys2Proof.Machine Sys2Proof.Safety

variable {s : State}

/-! ### The step -/

theorem step_waiting {c : Instr} {rest : List Instr} (h : s.pending = c :: rest) : step s = exec c { s with pending := rest } := by
  unfold step
  rw [h]

/-- Settles O1: the queue's front is the command given. -/
theorem stepRunsFront : Obligations.StepRunsFront := fun _ _ _ => step_waiting rfl

/-! ### The ends of operations: the operation in flight ends, or nothing happens -/

theorem completion_cases {c : Instr} {outcome : OpOutcome} {ok : Bool}
    (hc : c = .programComplete outcome ok ∨ c = .activationRecordComplete outcome ∨ c = .eraseComplete outcome ∨
      c = .eraseRecordComplete outcome) :
    exec c s = .next (s.opEnds outcome ok) ∨ exec c s = .next s := by
  obtain rfl | rfl | rfl | rfl := hc
  all_goals
    simp only [exec, execProgramComplete, execActivationRecordComplete, execEraseComplete, execEraseRecordComplete]
    split
    · next ho => exact .inl (by simp only [State.opEnds, ho])
    · exact .inr rfl

theorem deadline_cases (ok : Bool) (s : State) :
    exec (.operationDeadline ok) s = .next (s.opEnds .deadline ok) ∨ exec (.operationDeadline ok) s = .next s :=
  (em (s.running = true)).imp exec_operationDeadline fun hr => if_neg hr

/-! ### Every command -/

theorem goesOn_of_cases {o : Host.Outcome State Fault Refusal} {t u : State} (h : o = .next t ∨ o = .next u) : GoesOn o :=
  h.elim (⟨t, ·⟩) (⟨u, ·⟩)

/-- Settles O2: an end of an operation has a next state in each of its two cases, and every other command is one next state. -/
theorem everyCommandGoesOn : Obligations.EveryCommandGoesOn := by
  intro c s
  cases c with
  | programComplete outcome ok => exact goesOn_of_cases (completion_cases (.inl rfl))
  | activationRecordComplete outcome => exact goesOn_of_cases (completion_cases (ok := true) (.inr (.inl rfl)))
  | operationDeadline ok => exact goesOn_of_cases (deadline_cases ok s)
  | eraseComplete outcome => exact goesOn_of_cases (completion_cases (ok := true) (.inr (.inr (.inl rfl))))
  | eraseRecordComplete outcome => exact goesOn_of_cases (completion_cases (ok := true) (.inr (.inr (.inr rfl))))
  | _ => exact ⟨_, rfl⟩

end Sys2Proof.Proofs
end
